-- ==== Sys2Proof/Word.lean ====
section
/-! DEFINITION. The two word types of the block (00_scope.md R6): a byte (`u8`) and a height count (`u16`).
Comparisons on heights are made on the unsigned integers `toNat` (42_motion.md R183). -/

namespace Sys2Proof

/-- A byte, an unsigned integer 0..255 (R6). -/
abbrev Byte := BitVec 8

/-- A height count, an unsigned 16-bit integer (R6, R180): one least-significant unit of the protocol's height field. -/
abbrev Height := BitVec 16

end Sys2Proof
end

