-- ==== Sys2Proof/Config.lean ====
section
/-! DEFINITION. The configuration record `cfg` (00_scope.md R5), the fixed hysteresis constants, and the
configuration of the instance that `State.reset` describes. The parameters R5 leaves OPEN are constants without a
body here: nothing can be proved about which value they take (notes/assumptions/1.md). -/

namespace Sys2Proof

/-- `STRATEGY` (R5, R184): act by serial Commands (protocol-A) or by the two direction outputs (protocol-B). -/
inductive Strategy where
  | command
  | outputs
deriving DecidableEq, Repr, Inhabited

/-- The five command ids the source does not number (R5, R88): parameters of the model. -/
structure CommandIds where
  moveUp : Byte
  moveDown : Byte
  stop : Byte
  queryMemoryAndHeight : Byte
  queryLimits : Byte
deriving DecidableEq, Repr

/-- The configuration record `cfg` (R5), fixed for the life of an instance; only RESET supplies one (R300). -/
structure Cfg where
  /-- `STRATEGY`. -/
  strategy : Strategy
  /-- `UNIT_SCALE`: counts per height unit. -/
  unitScale : Nat
  /-- `SAFE_MIN`. -/
  safeMin : Height
  /-- `SAFE_MAX`. -/
  safeMax : Height
  /-- `BUF_CAP`; `none` is "unbounded". -/
  bufCap : Option Nat
  /-- `EVAL_ON_TICK`. -/
  evalOnTick : Bool
  /-- `REPEAT_MOVE`. -/
  repeatMove : Bool
  /-- The five `CID_*` bytes. -/
  ids : CommandIds
  /-- `TICK_W`: width of `state_ticks` in bits. -/
  tickW : Nat
  /-- `TICK_PERIOD`, in microseconds; no rule reads it (R195). -/
  tickPeriod : Nat
deriving DecidableEq, Repr

namespace Config

/-- `HYST_NUM` (R5, fixed). -/
def hystNum : Nat := 8

/-- `HYST_DEN` (R5, fixed). -/
def hystDen : Nat := 10

/-- `CID_GO_TO_HEIGHT` (R5): fixed by the source. -/
def goToHeightId : Byte := 0x1B#8

/-- The default `CID_*` bytes of R5 and R88. PRESUMED: the spec takes them from general knowledge, unsafe
(notes/assumptions/3.md). -/
def defaultIds : CommandIds where
  moveUp := 0x01#8
  moveDown := 0x02#8
  stop := 0x2B#8
  queryMemoryAndHeight := 0x07#8
  queryLimits := 0x0C#8

/-- `STRATEGY` of the instance after reset: OPEN in R5. -/
opaque openStrategy : Strategy

/-- `UNIT_SCALE` of the instance after reset is this plus one: OPEN in R5, at least 1. -/
opaque openUnitScalePred : Nat

/-- `SAFE_MIN` of the instance after reset: OPEN in R5. -/
opaque openSafeMin : Height

/-- `SAFE_MAX` of the instance after reset is the larger of this and `SAFE_MIN`: OPEN in R5, not below `SAFE_MIN`. -/
opaque openSafeMax : Height

/-- `EVAL_ON_TICK` of the instance after reset: OPEN in R5. -/
opaque openEvalOnTick : Bool

/-- `TICK_PERIOD` of the instance after reset: OPEN in R5. -/
opaque openTickPeriod : Nat

/-- `render` for a count that is not a millimetre (R235, I12): given `UNIT_SCALE` and the count, the string is not
stated by the spec. -/
opaque renderOther : Nat → Nat → List Char

/-- The configuration that RESET supplied to the instance described by `State.reset`: the values R5 takes, and the
OPEN parameters as constants nothing is known of beyond R5's own bounds. -/
def initial : Cfg where
  strategy := openStrategy
  unitScale := openUnitScalePred + 1
  safeMin := openSafeMin
  safeMax := if openSafeMin ≤ openSafeMax then openSafeMax else openSafeMin
  bufCap := some 512
  evalOnTick := openEvalOnTick
  repeatMove := false
  ids := defaultIds
  tickW := 32
  tickPeriod := openTickPeriod

end Config

end Sys2Proof
end

