-- ==== Sys2Proof/Values.lean ====
section
/-! DEFINITION. The value types of the block that are not state (10_state.md R28 to R30) and the host operations
(30_encoding.md R93): plain data, no meaning. -/

namespace Sys2Proof

/-- The two 2-byte start markers (R81). -/
inductive Marker where
  /-- `[0xF1,0xF1]`, from this block to the desk. -/
  | outgoing
  /-- `[0xF2,0xF2]`, from the desk to this block. -/
  | incoming
deriving DecidableEq, Repr

/-- The record of a Frame (R28), field for field. `Frame.wf` (Decode.lean) is its invariant. -/
structure Frame where
  startMarker : Marker
  commandId : Byte
  length : Byte
  payload : List Byte
  checksum : Byte
  endMarker : Byte
deriving DecidableEq, Repr

/-- Why a candidate span is no frame (R126). -/
inductive SpanFault where
  | tooShort
  | marker
  | checksum
  | length
deriving DecidableEq, Repr

/-- An outgoing intent (R29). -/
inductive Command where
  | moveUp
  | moveDown
  | stop
  | goToHeight (h : Height)
  | queryMemoryAndHeight
  | queryLimits
deriving DecidableEq, Repr

/-- A decoded telemetry fact (R30). -/
inductive TelemetryEvent where
  | heightReading (h : Height)
  /-- `slotId` is the raw command id, not a slot number (R162). -/
  | memorySlotReading (slotId : Byte) (h : Height)
  | limitReading (max min : Height)
deriving DecidableEq, Repr

/-- The host operations (R93), one constructor each. -/
inductive HostOp where
  | feed (bs : List Byte)
  | nextFrame
  | encode (c : Command)
  | decode (f : Frame)
  | setTarget (h : Height)
  | positionUpdate (h : Height)
  | tick
  | ingestBytes (bs : List Byte)
  | requestHeight (h : Height)
  | queryLimits
  | queryMemoryAndHeight
  | reset (cfg : Cfg)
deriving DecidableEq, Repr

end Sys2Proof
end

