-- ==== Sys2Proof/Syntax.lean ====
section
/-! DEFINITION. The instructions: the twelve frames of opcode_table.json (30_encoding.md R88, R89, R95). -/

namespace Sys2Proof

/-- One constructor per row of the opcode table. The operands are the frame's payload; marker, command id, length,
checksum and end marker follow from the row and the payload (R80, R83). -/
inductive Instr where
  /-- R131. -/
  | moveUp
  /-- R132. -/
  | moveDown
  /-- R133. -/
  | stop
  /-- R134; `h` is sent high byte first (R87). -/
  | goToHeight (h : Height)
  /-- R135. -/
  | queryMemoryAndHeight
  /-- R136. -/
  | queryLimits
  /-- R161; `extra` is the third payload byte, summed and otherwise ignored. -/
  | heightReading (h : Height) (extra : Byte)
  /-- R162; the whole payload, of any length 0..255. -/
  | memorySlotReading37 (payload : List Byte)
  /-- R163. -/
  | memorySlotReading38 (payload : List Byte)
  /-- R164. -/
  | memorySlotReading39 (payload : List Byte)
  /-- R165. -/
  | memorySlotReading40 (payload : List Byte)
  /-- R166; the maximum comes first. -/
  | limitReading (max min : Height)
deriving DecidableEq, Repr

end Sys2Proof
end

