-- ==== Sys2Proof/WellFormed.lean ====
section
/-! DEFINITION. Which terms are instructions the format can carry, and which configurations are legal. -/

namespace Sys2Proof

/-- An instruction is well-formed when its payload length fits the length byte (30_encoding.md R84, R85). Only the
memory-slot rows have a variable length. -/
def Instr.wf : Instr → Bool
  | .moveUp => true
  | .moveDown => true
  | .stop => true
  | .goToHeight _ => true
  | .queryMemoryAndHeight => true
  | .queryLimits => true
  | .heightReading _ _ => true
  | .memorySlotReading37 p => decide (p.length ≤ 255)
  | .memorySlotReading38 p => decide (p.length ≤ 255)
  | .memorySlotReading39 p => decide (p.length ≤ 255)
  | .memorySlotReading40 p => decide (p.length ≤ 255)
  | .limitReading _ _ => true

/-- The five parameterised command ids differ from each other, so that an outgoing frame names one Command. R5 does
not ask for it; the statements about decoding an encoded Command assume it (notes/assumptions/12.md). -/
def CommandIds.distinct (ids : CommandIds) : Bool :=
  decide ([ids.moveUp, ids.moveDown, ids.stop, ids.queryMemoryAndHeight, ids.queryLimits].Nodup)

/-- A legal configuration (70_reset_and_hazards.md R301 a). The block does not check it. -/
def Cfg.legal (c : Cfg) : Bool :=
  (match c.bufCap with | none => true | some cap => decide (261 ≤ cap)) &&
    decide (1 ≤ c.unitScale) && decide (c.safeMin.toNat ≤ c.safeMax.toNat)

end Sys2Proof
end

