-- ==== Sys2Proof/Decode.lean ====
section
/-! DEFINITION. The frame format (30_encoding.md), its validation (40_framecodec.md R126), the decoder from bytes to
an instruction, and after it the encoder from an instruction to bytes. -/

namespace Sys2Proof

/-! ## Fields -/

/-- R81. -/
def Marker.bytes : Marker → List Byte
  | .outgoing => [0xF1#8, 0xF1#8]
  | .incoming => [0xF2#8, 0xF2#8]

/-- R82. -/
def endByte : Byte := 0x7E#8

/-- `sum(s)` of R7: the integer sum of the bytes. -/
def byteSum : List Byte → Nat
  | [] => 0
  | b :: bs => b.toNat + byteSum bs

/-- The checksum of a checksummed region (R83): the low 8 bits of the sum. -/
def checksumOf (region : List Byte) : Byte := BitVec.ofNat 8 (byteSum region)

/-- `h // 256` (R87). -/
def highByte (h : Height) : Byte := BitVec.ofNat 8 (h.toNat / 256)

/-- `h % 256` (R87). -/
def lowByte (h : Height) : Byte := BitVec.ofNat 8 (h.toNat % 256)

/-- `hi*256 + lo` (R87). -/
def heightOf (hi lo : Byte) : Height := BitVec.ofNat 16 (hi.toNat * 256 + lo.toNat)

/-! ## Frames and spans -/

/-- The frame with a given marker, command id and payload (R80): length, checksum and end marker follow. -/
def frameWith (m : Marker) (cid : Byte) (payload : List Byte) : Frame where
  startMarker := m
  commandId := cid
  length := BitVec.ofNat 8 payload.length
  payload := payload
  checksum := checksumOf (cid :: BitVec.ofNat 8 payload.length :: payload)
  endMarker := endByte

/-- The Frame invariant (10_state.md R28, with R84's `len(payload) = length`). -/
def Frame.wf (f : Frame) : Bool :=
  decide (f.length.toNat = f.payload.length) &&
    decide (f.checksum = checksumOf (f.commandId :: f.length :: f.payload)) &&
    decide (f.endMarker = endByte)

/-- A frame as the bytes on the link, in index order (R80). -/
def Frame.bytes (f : Frame) : List Byte :=
  f.startMarker.bytes ++ f.commandId :: f.length :: (f.payload ++ [f.checksum, f.endMarker])

/-- The answer of `valid_span` (R126). -/
inductive SpanVerdict where
  | ok
  | bad (why : SpanFault)
deriving DecidableEq, Repr

/-- `span[2..len-3]`, the checksummed region (R83). -/
def checkedRegion (span : List Byte) : List Byte := (span.drop 2).take (span.length - 4)

/-- `valid_span(span, M)` (R126): the first failing check, in R126's order, gives the reason. -/
def validSpan (span : List Byte) (m : Marker) : SpanVerdict :=
  if span.length < 6 then .bad .tooShort
  else if span.take 2 ≠ m.bytes ∨ span.getD (span.length - 1) 0#8 ≠ endByte then .bad .marker
  else if span.getD (span.length - 2) 0#8 ≠ checksumOf (checkedRegion span) then .bad .checksum
  else if (span.getD 3 0#8).toNat ≠ span.length - 6 then .bad .length
  else .ok

/-- The fields read off a span (R121). Meaningful when `validSpan` answers `ok`. -/
def readFrame (m : Marker) (span : List Byte) : Frame where
  startMarker := m
  commandId := span.getD 2 0#8
  length := span.getD 3 0#8
  payload := (span.drop 4).take (span.length - 6)
  checksum := span.getD (span.length - 2) 0#8
  endMarker := endByte

/-- `frame_of_span(bs, M)` (R137): the whole sequence as one span, no terminator search. -/
def frameOfSpan (bs : List Byte) (m : Marker) : Option Frame :=
  match validSpan bs m with
  | .ok => some (readFrame m bs)
  | .bad _ => none

/-! ## Decoding -/

/-- The row of R89 an incoming frame selects; `none` is R89's last row, "any other id, or id 1 with `length != 3`, or
id 7 with `length != 4`". -/
def instrOfIncoming (f : Frame) : Option Instr :=
  if f.commandId = 1#8 then
    match f.payload with
    | [p0, p1, p2] => some (.heightReading (heightOf p0 p1) p2)
    | _ => none
  else if f.commandId = 37#8 then some (.memorySlotReading37 f.payload)
  else if f.commandId = 38#8 then some (.memorySlotReading38 f.payload)
  else if f.commandId = 39#8 then some (.memorySlotReading39 f.payload)
  else if f.commandId = 40#8 then some (.memorySlotReading40 f.payload)
  else if f.commandId = 7#8 then
    match f.payload with
    | [p0, p1, p2, p3] => some (.limitReading (heightOf p0 p1) (heightOf p2 p3))
    | _ => none
  else none

/-- The row of R88 an outgoing frame stands for, under the configured command ids. Where two ids coincide the first
row in table order is taken (DESIGN CHOICE, notes/assumptions/12.md). -/
def instrOfOutgoing (ids : CommandIds) (f : Frame) : Option Instr :=
  match f.payload with
  | [] =>
    if f.commandId = ids.moveUp then some .moveUp
    else if f.commandId = ids.moveDown then some .moveDown
    else if f.commandId = ids.stop then some .stop
    else if f.commandId = ids.queryMemoryAndHeight then some .queryMemoryAndHeight
    else if f.commandId = ids.queryLimits then some .queryLimits
    else none
  | [hi, lo] => if f.commandId = Config.goToHeightId then some (.goToHeight (heightOf hi lo)) else none
  | _ => none

/-- The row a frame selects; the marker tells the two directions apart (R90). -/
def instrOfFrame (ids : CommandIds) (f : Frame) : Option Instr :=
  match f.startMarker with
  | .outgoing => instrOfOutgoing ids f
  | .incoming => instrOfIncoming f

/-- Why bytes are no instruction. -/
inductive DecodeReject where
  /-- Not a frame (R91): the first failing check of R126. -/
  | notAFrame (why : SpanFault)
  /-- A frame that selects no row (R90). -/
  | noRow (commandId : Byte) (length : Byte)
deriving DecidableEq, Repr

/-- The decoder's answer. -/
inductive Decoded where
  | instr (i : Instr)
  | reject (r : DecodeReject)
deriving DecidableEq, Repr

/-- The marker the first two bytes name: outgoing when they are `F1 F1`, else incoming (and `validSpan` then rejects
bytes that start with neither). -/
def markerOf (bs : List Byte) : Marker :=
  if bs.take 2 = Marker.outgoing.bytes then .outgoing else .incoming

/-- The decoder: the whole byte sequence as one span (R137), validated (R126), then looked up (R88, R89). Total. -/
def decode (ids : CommandIds) (bs : List Byte) : Decoded :=
  match validSpan bs (markerOf bs) with
  | .bad why => .reject (.notAFrame why)
  | .ok =>
    match instrOfFrame ids (readFrame (markerOf bs) bs) with
    | some i => .instr i
    | none => .reject (.noRow (bs.getD 2 0#8) (bs.getD 3 0#8))

/-! ## Encoding -/

/-- The frame of an instruction: command id and payload as R88 and R89 give them. -/
def frameOfInstr (ids : CommandIds) : Instr → Frame
  | .moveUp => frameWith .outgoing ids.moveUp []
  | .moveDown => frameWith .outgoing ids.moveDown []
  | .stop => frameWith .outgoing ids.stop []
  | .goToHeight h => frameWith .outgoing Config.goToHeightId [highByte h, lowByte h]
  | .queryMemoryAndHeight => frameWith .outgoing ids.queryMemoryAndHeight []
  | .queryLimits => frameWith .outgoing ids.queryLimits []
  | .heightReading h extra => frameWith .incoming 1#8 [highByte h, lowByte h, extra]
  | .memorySlotReading37 p => frameWith .incoming 37#8 p
  | .memorySlotReading38 p => frameWith .incoming 38#8 p
  | .memorySlotReading39 p => frameWith .incoming 39#8 p
  | .memorySlotReading40 p => frameWith .incoming 40#8 p
  | .limitReading mx mn => frameWith .incoming 7#8 [highByte mx, lowByte mx, highByte mn, lowByte mn]

/-- The encoder: the bytes of an instruction. -/
def encode (ids : CommandIds) (i : Instr) : List Byte := (frameOfInstr ids i).bytes

/-- The instruction a Command is (R29, R88). -/
def Command.toInstr : Command → Instr
  | .moveUp => .moveUp
  | .moveDown => .moveDown
  | .stop => .stop
  | .goToHeight h => .goToHeight h
  | .queryMemoryAndHeight => .queryMemoryAndHeight
  | .queryLimits => .queryLimits

/-- The Command an outgoing instruction is; `none` for a telemetry row. -/
def Instr.command? : Instr → Option Command
  | .moveUp => some .moveUp
  | .moveDown => some .moveDown
  | .stop => some .stop
  | .goToHeight h => some (.goToHeight h)
  | .queryMemoryAndHeight => some .queryMemoryAndHeight
  | .queryLimits => some .queryLimits
  | .heightReading _ _ => none
  | .memorySlotReading37 _ => none
  | .memorySlotReading38 _ => none
  | .memorySlotReading39 _ => none
  | .memorySlotReading40 _ => none
  | .limitReading _ _ => none

/-- The direction of an instruction's frame. -/
def Instr.marker (i : Instr) : Marker := if i.command?.isSome then .outgoing else .incoming

/-- The command id of a Command (R130's `cid`). -/
def Command.id (ids : CommandIds) : Command → Byte
  | .moveUp => ids.moveUp
  | .moveDown => ids.moveDown
  | .stop => ids.stop
  | .goToHeight _ => Config.goToHeightId
  | .queryMemoryAndHeight => ids.queryMemoryAndHeight
  | .queryLimits => ids.queryLimits

/-- The payload of a Command (R130's `pl`). -/
def Command.payload : Command → List Byte
  | .moveUp => []
  | .moveDown => []
  | .stop => []
  | .goToHeight h => [highByte h, lowByte h]
  | .queryMemoryAndHeight => []
  | .queryLimits => []

/-- `ENCODE(cmd)` (R130), built as R130 writes it: `[0xF1, 0xF1, cid, L] ++ pl ++ [ck, 0x7E]`. -/
def encodeCommand (ids : CommandIds) (c : Command) : List Byte :=
  [0xF1#8, 0xF1#8, c.id ids, BitVec.ofNat 8 c.payload.length] ++ c.payload ++
    [BitVec.ofNat 8 ((c.id ids).toNat + c.payload.length + byteSum c.payload), 0x7E#8]

/-! ## The opcode table's words -/

/-- The `n` low bytes of `w`, most significant first (R95: first byte first, bit 7 first). -/
def bigEndianBytes : Nat → Nat → List Byte
  | 0, _ => []
  | n + 1, w => BitVec.ofNat 8 (w / 256 ^ n) :: bigEndianBytes n w

/-- The bytes of the instruction whose table word is `w` (R95: the 32-bit header word, first byte most significant).
Operand bits the word does not hold are 0. The checksum and the end marker are no operands: they follow from the rest
(R82, R83), so a frame the word leaves open is closed with them (DESIGN CHOICE, notes/assumptions/8.md). A word as long
as the whole frame is taken as it is. -/
def tableWordBytes (nbits w : Nat) : List Byte :=
  let given := bigEndianBytes (max 4 ((nbits + 7) / 8)) w
  let len := (given.getD 3 0#8).toNat
  if 6 + len ≤ given.length then given
  else
    let payload := (given.drop 4 ++ List.replicate len 0#8).take len
    let region := given.getD 2 0#8 :: given.getD 3 0#8 :: payload
    given.take 2 ++ region ++ [checksumOf region, endByte]

/-- The instruction the decoder reads from a table word, under the table's own command ids (R95: "the five
parameterised ids with their default values"). -/
def decodeTableWord (nbits w : Nat) : Option Instr :=
  match decode Config.defaultIds (tableWordBytes nbits w) with
  | .instr i => some i
  | .reject _ => none

end Sys2Proof
end

