-- ==== Sys2Proof/Machine/State.lean ====
section
/-! DEFINITION. The state `S` (10_state.md R20), with the model's own fields beside it: the configuration of the
instance, the operations the host is about to invoke, the action trace and the last operation's result. -/

namespace Sys2Proof.Machine

/-- A direction of travel (R181); it also names the output that drives it (R188). -/
inductive Direction where
  | up
  | down
deriving DecidableEq, Repr

/-- `motion` (R25). -/
inductive Motion where
  | idle
  | seeking (d : Direction)
  /-- Entered and left inside one operation (R189). -/
  | stopping
deriving DecidableEq, Repr

/-- The error conditions with what each records (60_exceptions.md R260). -/
inductive ErrorRecord where
  | frameError (why : SpanFault)
  | rangeError (h : Height)
  | underflowError (commandId : Byte) (length : Nat)
  | noPosition (h : Height)
  | bufferOverflow (dropped : Nat)
deriving DecidableEq, Repr

/-- One observable action (00_scope.md R8). -/
inductive Action where
  /-- `Set(up, b)` or `Set(down, b)`. -/
  | set (output : Direction) (b : Bool)
  /-- `Emit(cmd)`, with the bytes handed to Transport out. -/
  | emit (c : Command) (bytes : List Byte)
  /-- `Publish(height_read, h)`. -/
  | publish (h : Height)
  /-- `Enter(m)`. -/
  | enter (m : Motion)
  /-- `Log(kind, info)`. -/
  | log (e : ErrorRecord)
deriving DecidableEq, Repr

/-- What an operation returns to the host (30_encoding.md R93). -/
inductive OpResult where
  /-- No result. -/
  | nothing
  /-- NEXT_FRAME. -/
  | frame (f : Option Frame)
  /-- ENCODE. -/
  | bytes (bs : List Byte)
  /-- DECODE. -/
  | event (e : Option TelemetryEvent)
  /-- SET_TARGET and REQUEST_HEIGHT. -/
  | accepted (b : Bool)
  /-- INGEST_BYTES: the heights of its `Publish` actions, in order. -/
  | published (hs : List Height)
deriving DecidableEq, Repr

/-- The one address space, the RawByteBuffer (20_memory.md R60): the byte at address `i` is the `i`-th from the
oldest. The list is the canonical form (notes/assumptions/11.md). -/
abbrev Memory := List Byte

/-- The state of the machine. -/
@[ext]
structure State where
  /-- `cfg` (R5): fixed; only RESET supplies another. -/
  cfg : Cfg
  /-- RawByteBuffer (R21). -/
  buf : Memory
  /-- R22. -/
  currentHeight : Option Height
  /-- R23. -/
  maxHeight : Option Height
  /-- R23. -/
  minHeight : Option Height
  /-- R24. -/
  targetHeight : Option Height
  /-- R25. -/
  motion : Motion
  /-- The digital output `up` (R26). -/
  up : Bool
  /-- The digital output `down` (R26). -/
  down : Bool
  /-- Elapsed time in state (R27), below `2^TICK_W`. -/
  stateTicks : Nat
  /-- The model's own: the operations the host is about to invoke, the next one first (R8, R67). -/
  pending : List HostOp
  /-- The model's own: every action since `State.reset`, oldest first (R8). -/
  trace : List Action
  /-- The model's own: the result of the latest operation (R8, R93). -/
  result : OpResult
deriving DecidableEq, Repr

/-- Why a step stops. -/
inductive Fault where
  /-- Raised by SET_TARGET and REQUEST_HEIGHT in a state whose `motion` is `Stopping`, which R186 calls unreachable at an
  operation boundary and gives no effect. Safe. -/
  | stoppingAtBoundary
deriving DecidableEq, Repr

/-- Why a step gives no meaning. -/
inductive Refusal where
  /-- Raised only by an arm of `exec` for an instruction that has no meaning yet; no arm uses it. Safe. -/
  | notModelled (mnemonic : String)
  /-- Raised by DECODE when its argument is a record that breaks the Frame invariant, so no Frame (R28). Safe. -/
  | notAFrame
deriving DecidableEq, Repr

/-- The state right after `RESET(cfg)` on a new instance (R35, R300). RESET's own output writes lie before it; the host
operation RESET records them (HostOps.lean, `resetOp`; notes/assumptions/6.md). -/
def State.resetWith (cfg : Cfg) : State where
  cfg := cfg
  buf := []
  currentHeight := none
  maxHeight := none
  minHeight := none
  targetHeight := none
  motion := .idle
  up := false
  down := false
  stateTicks := 0
  pending := []
  trace := []
  result := .nothing

/-- The machine right after reset. -/
def State.reset : State := State.resetWith Config.initial

end Sys2Proof.Machine
end

