-- ==== Sys2Proof/Machine/Ops.lean ====
section
/-! DEFINITION. The named operations over memory, state fields and ports that every meaning is made of. -/

namespace Sys2Proof.Machine

/-! ## Memory: the RawByteBuffer (20_memory.md) -/

/-- The memory's form: no longer than `BUF_CAP` (R20, R21). -/
def Memory.wf (cap : Option Nat) (m : Memory) : Bool :=
  match cap with
  | none => true
  | some c => decide (m.length ≤ c)

/-- The memory as (address, byte) pairs, addresses from `base` rising. -/
def Memory.cellsFrom : Nat → Memory → List Host.Cell
  | _, [] => []
  | base, b :: bs => (base, b) :: Memory.cellsFrom (base + 1) bs

/-- The memory as (address, byte) pairs (R60). -/
def Memory.cells (m : Memory) : List Host.Cell := Memory.cellsFrom 0 m

/-- Reading one byte; an address at or past the end does not exist (R60). -/
def Memory.read (m : Memory) (a : Nat) : Option Byte := m[a]?

/-- The only write (R61): append at the end. -/
def Memory.append (m : Memory) (bs : List Byte) : Memory := m ++ bs

/-- The only removal (R62): the `k` oldest bytes. -/
def Memory.consume (m : Memory) (k : Nat) : Memory := m.drop k

/-- How many bytes exceed `BUF_CAP` (R120's `d`; 0 when nothing overflows). -/
def Memory.excess (cap : Option Nat) (m : Memory) : Nat :=
  match cap with
  | none => 0
  | some c => m.length - c

/-! ## Field writes -/

def State.setBuf (s : State) (m : Memory) : State := { s with buf := m }

def State.setCurrentHeight (s : State) (h : Option Height) : State := { s with currentHeight := h }

/-- Both limits are written together, and only together (R23). -/
def State.setLimits (s : State) (mx mn : Height) : State :=
  { s with maxHeight := some mx, minHeight := some mn }

def State.setTargetHeight (s : State) (h : Option Height) : State := { s with targetHeight := h }

/-- `motion` is written with `state_ticks`, by `enter` alone (R196). -/
def State.setMotion (s : State) (m : Motion) : State := { s with motion := m, stateTicks := 0 }

def State.setTicks (s : State) (n : Nat) : State := { s with stateTicks := n }

def State.setPending (s : State) (ops : List HostOp) : State := { s with pending := ops }

def State.returns (s : State) (r : OpResult) : State := { s with result := r }

/-- The output named by a direction: `S.<Up>` is `S.up`, `S.<Down>` is `S.down` (R188). -/
def State.output (s : State) : Direction → Bool
  | .up => s.up
  | .down => s.down

def State.putOutput (s : State) (d : Direction) (b : Bool) : State :=
  match d with
  | .up => { s with up := b }
  | .down => { s with down := b }

/-- Consuming the `k` oldest bytes of the buffer (R62). -/
def State.consume (s : State) (k : Nat) : State := s.setBuf (s.buf.consume k)

/-! ## Actions on the ports (R8, R277) -/

/-- `act(a)` (R9). -/
def State.act (s : State) (a : Action) : State := { s with trace := s.trace ++ [a] }

/-- `act(Emit(cmd))`: the whole `ENCODE(cmd)` goes to Transport out (R8, R241). -/
def emit (c : Command) (s : State) : State := s.act (.emit c (encodeCommand s.cfg.ids c))

/-- `act(Set(d, b)) ; S.<d> <- b` (R188, R189). -/
def setOutput (d : Direction) (b : Bool) (s : State) : State := (s.act (.set d b)).putOutput d b

/-- `act(Publish(height_read, h))` (R235). -/
def publish (h : Height) (s : State) : State := s.act (.publish h)

/-- `enter(m)` (R196). -/
def enter (m : Motion) (s : State) : State := (s.setMotion m).act (.enter m)

/-! ## Errors: the block's exceptions (60_exceptions.md) -/

/-- The numeric code (R260). -/
def ErrorRecord.code : ErrorRecord → Nat
  | .frameError _ => 1
  | .rangeError _ => 2
  | .underflowError _ _ => 3
  | .noPosition _ => 4
  | .bufferOverflow _ => 5

/-- `raise E(info)` (R260, R267): exactly the effect in R260's table. A FrameError drops the span's leading byte, which
is the oldest byte of the buffer when it is raised (R128); a BufferOverflow drops the `d` oldest bytes (R120); the
others change no state. Each is logged. No state is saved, no mode changes and control goes on in the same operation,
so there is no return (R268); the result `false` of a rejection is the caller's to give. -/
def raiseError (e : ErrorRecord) (s : State) : State :=
  match e with
  | .frameError why => (s.act (.log (.frameError why))).consume 1
  | .rangeError h => s.act (.log (.rangeError h))
  | .underflowError cid len => s.act (.log (.underflowError cid len))
  | .noPosition h => s.act (.log (.noPosition h))
  | .bufferOverflow d => (s.consume d).act (.log (.bufferOverflow d))

/-! ## Outcomes -/

/-- Going on after an outcome: a stop stays a stop. -/
def andThen (o : Host.Outcome State Fault Refusal) (k : State → Host.Outcome State Fault Refusal) :
    Host.Outcome State Fault Refusal :=
  match o with
  | .next s => k s
  | .fault r => .fault r
  | .refused r => .refused r

end Sys2Proof.Machine
end

