-- ==== Sys2Proof/Machine/Commands.lean ====
section
/-! DEFINITION. The meanings of the six outgoing rows: ENCODE of the Command (40_framecodec.md R130 to R136). ENCODE reads
and writes no state; its result is the frame's bytes. Handing them to Transport out is the action `Emit`, which the
controller and the two queries take (Ops.lean, `emit`; notes/assumptions/7.md). -/

namespace Sys2Proof.Machine

/-- `ENCODE(cmd)` (R130) as an operation. -/
def returnFrame (c : Command) (s : State) : State := s.returns (.bytes (encodeCommand s.cfg.ids c))

/-- R131. -/
def execMoveUp (s : State) : Host.Outcome State Fault Refusal := .next (returnFrame .moveUp s)

/-- R132. -/
def execMoveDown (s : State) : Host.Outcome State Fault Refusal := .next (returnFrame .moveDown s)

/-- R133. -/
def execStop (s : State) : Host.Outcome State Fault Refusal := .next (returnFrame .stop s)

/-- R134. -/
def execGoToHeight (h : Height) (s : State) : Host.Outcome State Fault Refusal :=
  .next (returnFrame (.goToHeight h) s)

/-- R135. -/
def execQueryMemoryAndHeight (s : State) : Host.Outcome State Fault Refusal :=
  .next (returnFrame .queryMemoryAndHeight s)

/-- R136. -/
def execQueryLimits (s : State) : Host.Outcome State Fault Refusal := .next (returnFrame .queryLimits s)

end Sys2Proof.Machine
end

