-- ==== Sys2Proof/Machine/Flags.lean ====
section
/-! DEFINITION. The comparator (42_motion.md, section 1). The block has no condition-code register (10_state.md R36); its
only condition-like flags are the outputs `up` and `down` (R26), written by `setOutput` (Ops.lean). -/

namespace Sys2Proof.Machine

/-- `|c - t|` as `max(c,t) - min(c,t)` (R183): never negative, never wraps. -/
def absDiff (c t : Nat) : Nat := max c t - min c t

/-- `in_band(c, t)` (R180): `10 * |c - t| <= 8 * UNIT_SCALE`. -/
def inBand (cfg : Cfg) (c t : Height) : Bool :=
  decide (Config.hystDen * absDiff c.toNat t.toNat ≤ Config.hystNum * cfg.unitScale)

/-- `dir(c, t)` (R181); consulted only out of band, so never with `t = c`. -/
def dir (c t : Height) : Direction := if c.toNat < t.toNat then .up else .down

/-- `opp(d)` (R181). -/
def Direction.opp : Direction → Direction
  | .up => .down
  | .down => .up

/-- `in_range(h)` (R182): the desk's limits when both are known, else the safety range; closed intervals. -/
def inRange (s : State) (h : Height) : Bool :=
  match s.maxHeight, s.minHeight with
  | some mx, some mn => decide (mn.toNat ≤ h.toNat) && decide (h.toNat ≤ mx.toNat)
  | _, _ => decide (s.cfg.safeMin.toNat ≤ h.toNat) && decide (h.toNat ≤ s.cfg.safeMax.toNat)

end Sys2Proof.Machine
end

