-- ==== Sys2Proof/Machine/Motion.lean ====
section
/-! DEFINITION. MotionController (42_motion.md): the action sequences, SET_TARGET, POSITION_UPDATE, TICK. -/

namespace Sys2Proof.Machine

/-- The Command that moves in a direction (R188). -/
def moveCommand : Direction → Command
  | .up => .moveUp
  | .down => .moveDown

/-- `drive(d)` (R188): under `Outputs` the opposite output is written false first. -/
def drive (d : Direction) (s : State) : State :=
  match s.cfg.strategy with
  | .outputs => setOutput d true (setOutput d.opp false s)
  | .command => emit (moveCommand d) s

/-- `stop_seq()` (R189): through `Stopping` to `Idle` in one operation. -/
def stopSeq (s : State) : State :=
  let s1 := enter .stopping s
  let s2 := match s.cfg.strategy with
    | .outputs => setOutput .down false (setOutput .up false s1)
    | .command => emit .stop s1
  enter .idle s2

/-- `reverse(d0, d)` (R190); `d` is `opp(d0)`, so only `d` is needed. -/
def reverse (d : Direction) (s : State) : State :=
  let s1 := match s.cfg.strategy with
    | .outputs => s
    | .command => emit .stop s
  drive d (enter (.seeking d) s1)

/-- `evaluate()` (R193). -/
def evaluate (s : State) : State :=
  match s.motion, s.currentHeight, s.targetHeight with
  | .seeking d, some c, some t =>
    if inBand s.cfg c t then stopSeq s
    else if s.cfg.strategy = .command ∧ s.cfg.repeatMove = true then drive d s
    else s
  | _, _, _ => s

/-- `POSITION_UPDATE(h)` (R192). -/
def positionUpdate (h : Height) (s : State) : State :=
  if s.currentHeight = some h then s else evaluate (s.setCurrentHeight (some h))

/-- The counter saturates at `2^TICK_W - 1` (R195). -/
def countTick (s : State) : State :=
  if s.stateTicks < 2 ^ s.cfg.tickW - 1 then s.setTicks (s.stateTicks + 1) else s

/-- `TICK()` (R195). -/
def tick (s : State) : State :=
  if s.cfg.evalOnTick = true then evaluate (countTick s) else countTick s

/-- `SET_TARGET` with the target accepted and the position known: R186's `case S.motion of`. -/
def seekTo (c h : Height) (s : State) : Host.Outcome State Fault Refusal :=
  match s.motion with
  | .idle =>
    if inBand s.cfg c h then .next s
    else .next (drive (dir c h) (enter (.seeking (dir c h)) s))
  | .seeking d0 =>
    if inBand s.cfg c h then .next (stopSeq s)
    else if dir c h = d0 then .next s
    else .next (reverse (dir c h) s)
  | .stopping => .fault .stoppingAtBoundary

/-- `SET_TARGET(h)` (R186, R187): the range check first, then the position, then the seek. -/
def setTarget (h : Height) (s : State) : Host.Outcome State Fault Refusal :=
  if inRange s h = false then .next ((raiseError (.rangeError h) s).returns (.accepted false))
  else
    match s.currentHeight with
    | none => .next ((raiseError (.noPosition h) s).returns (.accepted false))
    | some c =>
      andThen (seekTo c h (s.setTargetHeight (some h))) fun t => .next (t.returns (.accepted true))

end Sys2Proof.Machine
end

