-- ==== Sys2Proof/Machine/Operands.lean ====
section
/-! DEFINITION. The operand forms: 16-bit heights read from a payload (30_encoding.md R87), and DECODE, the pure
mapping from a Frame to a telemetry event (41_telemetry.md R160). -/

namespace Sys2Proof.Machine

/-- The height at payload bytes `i` and `i+1`, high byte first (R87); `none` when the payload is too short to index. -/
def heightAt (p : List Byte) (i : Nat) : Option Height :=
  match p.drop i with
  | hi :: lo :: _ => some (heightOf hi lo)
  | _ => none

/-- What DECODE answers: an event, an UnderflowError with `(command_id, length)`, or nothing. -/
inductive Decoding where
  | event (e : TelemetryEvent)
  | underflow (commandId : Byte) (length : Nat)
  | nothing
deriving DecidableEq, Repr

/-- A memory-slot id (R160: `cid in {37, 38, 39, 40}`). -/
def isSlotId (cid : Byte) : Bool := decide (cid ∈ [37#8, 38#8, 39#8, 40#8])

/-- `DECODE(frame)` (R160), in R160's order. -/
def telemetryOf (f : Frame) : Decoding :=
  if f.commandId = 1#8 ∧ f.length = 3#8 then
    match heightAt f.payload 0 with
    | some h => .event (.heightReading h)
    | none => .nothing
  else if isSlotId f.commandId then
    match heightAt f.payload 0 with
    | some h => .event (.memorySlotReading f.commandId h)
    | none => .underflow f.commandId f.length.toNat
  else if f.commandId = 7#8 ∧ f.length = 4#8 then
    match heightAt f.payload 0, heightAt f.payload 2 with
    | some mx, some mn => .event (.limitReading mx mn)
    | _, _ => .nothing
  else .nothing

end Sys2Proof.Machine
end

