-- ==== Sys2Proof/Machine/Session.lean ====
section
/-! DEFINITION. DeskSession's application of events (43_session.md R231 to R235). -/

namespace Sys2Proof.Machine

/-- Applying `HeightReading(h)` (R232): publish and update only when the height changed. -/
def applyHeightReading (h : Height) (s : State) : State :=
  if s.currentHeight = some h then s else positionUpdate h (publish h s)

/-- Applying `LimitReading(max, min)` (R233): stored as received, nothing else. -/
def applyLimitReading (mx mn : Height) (s : State) : State := s.setLimits mx mn

/-- Applying `MemorySlotReading(id, h)` (R234): nothing. -/
def applyMemorySlotReading (_slotId : Byte) (_h : Height) (s : State) : State := s

/-- `apply(e)` (R231). -/
def applyEvent (e : TelemetryEvent) (s : State) : State :=
  match e with
  | .heightReading h => applyHeightReading h s
  | .limitReading mx mn => applyLimitReading mx mn s
  | .memorySlotReading slotId h => applyMemorySlotReading slotId h s

/-- DECODE's result and log for a decoding (R160, R167): an UnderflowError is raised, an event is the result. -/
def reportDecoding (d : Decoding) (s : State) : State :=
  match d with
  | .event e => s.returns (.event (some e))
  | .underflow cid len => (raiseError (.underflowError cid len) s).returns (.event none)
  | .nothing => s.returns (.event none)

/-- A telemetry event received: DECODE's result, then `apply` (R230). -/
def receiveEvent (e : TelemetryEvent) (s : State) : State :=
  applyEvent e (reportDecoding (.event e) s)

/-- `render(h)` (R235): for a millimetre count, which is protocol-A with `UNIT_SCALE = 1`, the digits of `h // 10`, a full
stop and the digit `h % 10`; for any other count the spec states no string (notes/assumptions/14.md). -/
def render (cfg : Cfg) (h : Height) : List Char :=
  if cfg.strategy = .command ∧ cfg.unitScale = 1 then
    Nat.toDigits 10 (h.toNat / 10) ++ '.' :: Nat.toDigits 10 (h.toNat % 10)
  else Config.renderOther cfg.unitScale h.toNat

/-- The heights published by some actions, in order: INGEST_BYTES's result (R230). -/
def publishedHeights : List Action → List Height
  | [] => []
  | .publish h :: rest => h :: publishedHeights rest
  | _ :: rest => publishedHeights rest

end Sys2Proof.Machine
end

