-- ==== Sys2Proof/Machine/Telemetry.lean ====
section
/-! DEFINITION. The meanings of the six telemetry rows: DECODE's answer (41_telemetry.md) and its application
(43_session.md R231 to R234). The frame itself has already left the buffer (R127). -/

namespace Sys2Proof.Machine

/-- R161, R232. -/
def execHeightReading (h : Height) (_extra : Byte) (s : State) : Host.Outcome State Fault Refusal :=
  .next (receiveEvent (.heightReading h) s)

/-- A memory-slot frame (R162, R167, R234): with at least two payload bytes the event, else an UnderflowError. -/
def receiveSlot (slotId : Byte) (p : List Byte) (s : State) : State :=
  match heightAt p 0 with
  | some h => receiveEvent (.memorySlotReading slotId h) s
  | none => reportDecoding (.underflow slotId p.length) s

/-- R162. -/
def execMemorySlotReading37 (p : List Byte) (s : State) : Host.Outcome State Fault Refusal :=
  .next (receiveSlot 37#8 p s)

/-- R163. -/
def execMemorySlotReading38 (p : List Byte) (s : State) : Host.Outcome State Fault Refusal :=
  .next (receiveSlot 38#8 p s)

/-- R164. -/
def execMemorySlotReading39 (p : List Byte) (s : State) : Host.Outcome State Fault Refusal :=
  .next (receiveSlot 39#8 p s)

/-- R165. -/
def execMemorySlotReading40 (p : List Byte) (s : State) : Host.Outcome State Fault Refusal :=
  .next (receiveSlot 40#8 p s)

/-- R166, R233. -/
def execLimitReading (mx mn : Height) (s : State) : Host.Outcome State Fault Refusal :=
  .next (receiveEvent (.limitReading mx mn) s)

end Sys2Proof.Machine
end

