-- ==== Sys2Proof/Machine/Dispatch.lean ====
section
/-! DEFINITION. One arm per instruction, each a direct call of its meaning. -/

namespace Sys2Proof.Machine

def exec (i : Instr) (s : State) : Host.Outcome State Fault Refusal :=
  match i with
  | .moveUp => Sys2Proof.Machine.execMoveUp s
  | .moveDown => Sys2Proof.Machine.execMoveDown s
  | .stop => Sys2Proof.Machine.execStop s
  | .goToHeight h => Sys2Proof.Machine.execGoToHeight h s
  | .queryMemoryAndHeight => Sys2Proof.Machine.execQueryMemoryAndHeight s
  | .queryLimits => Sys2Proof.Machine.execQueryLimits s
  | .heightReading h extra => Sys2Proof.Machine.execHeightReading h extra s
  | .memorySlotReading37 p => Sys2Proof.Machine.execMemorySlotReading37 p s
  | .memorySlotReading38 p => Sys2Proof.Machine.execMemorySlotReading38 p s
  | .memorySlotReading39 p => Sys2Proof.Machine.execMemorySlotReading39 p s
  | .memorySlotReading40 p => Sys2Proof.Machine.execMemorySlotReading40 p s
  | .limitReading mx mn => Sys2Proof.Machine.execLimitReading mx mn s

end Sys2Proof.Machine
end

