-- ==== Sys2Proof/Machine/FrameCodec.lean ====
section
/-! DEFINITION. FEED and NEXT_FRAME (40_framecodec.md): fetching an instruction's bytes from the buffer. ENCODE is in
Decode.lean. -/

namespace Sys2Proof.Machine

/-- `FEED(bs)` (R120): append, then drop the oldest bytes that exceed `BUF_CAP`. -/
def feed (bs : List Byte) (s : State) : State :=
  let s1 := s.setBuf (s.buf.append bs)
  let d := s1.buf.excess s.cfg.bufCap
  if d = 0 then s1 else raiseError (.bufferOverflow d) s1

/-- `find_marker(b)` (R122): the least index at which `F2 F2` stands. -/
def findMarker : List Byte → Option Nat
  | a :: b :: rest =>
    if a = 0xF2#8 ∧ b = 0xF2#8 then some 0 else (findMarker (b :: rest)).map (· + 1)
  | _ => none

/-- The least index of an end byte. -/
def findEndByte : List Byte → Option Nat
  | [] => none
  | b :: rest => if b = endByte then some 0 else (findEndByte rest).map (· + 1)

/-- `find_end(b)` (R125): the least index `j >= 2` with `b[j] = 0x7E`. -/
def findEnd (b : List Byte) : Option Nat := (findEndByte (b.drop 2)).map (· + 2)

/-- `keep_tail(b)` (R123): a trailing `F2` may be the first half of a marker. -/
def keepTail (b : List Byte) : List Byte := if b.getLast? = some 0xF2#8 then [0xF2#8] else []

/-- The loop of NEXT_FRAME (R121). Every turn that goes round removes a byte (R129), so a fuel greater than the buffer's
length is never used up; with no fuel left the answer is `None`. -/
def nextFrameLoop : Nat → State → Option Frame × State
  | 0, s => (none, s)
  | fuel + 1, s =>
    match findMarker s.buf with
    | none => (none, s.setBuf (keepTail s.buf))
    | some i =>
      let s1 := s.consume i
      match findEnd s1.buf with
      | none => (none, s1)
      | some e =>
        let span := s1.buf.take (e + 1)
        match validSpan span .incoming with
        | .ok => (some (readFrame .incoming span), s1.consume (e + 1))
        | .bad why => nextFrameLoop fuel (raiseError (.frameError why) s1)

/-- `NEXT_FRAME()` (R121): the frame, if one was found, and the state after. -/
def nextFrame (s : State) : Option Frame × State := nextFrameLoop (s.buf.length + 1) s

end Sys2Proof.Machine
end

