-- ==== Sys2Proof/Machine/HostOps.lean ====
section
/-! DEFINITION. The host operations (30_encoding.md R93): each is atomic (00_scope.md R8), and one of them is one step. -/

namespace Sys2Proof.Machine

/-- The loop of INGEST_BYTES (R230): take frames one after another, decode each and run it before the next is framed. A
frame that selects no row is consumed and ignored (R168). Every frame taken removes bytes, so a fuel greater than the
buffer's length is never used up. -/
def drainLoop : Nat → State → Host.Outcome State Fault Refusal
  | 0, s => .next s
  | fuel + 1, s =>
    match nextFrame s with
    | (none, s1) => .next s1
    | (some f, s1) =>
      match instrOfIncoming f with
      | none => drainLoop fuel s1
      | some i => andThen (exec i s1) (drainLoop fuel)

/-- Framing and running everything the buffer holds (R230). -/
def drain (s : State) : Host.Outcome State Fault Refusal := drainLoop (s.buf.length + 1) s

/-- The heights published since the trace was `before`. -/
def publishedSince (before : List Action) (s : State) : List Height :=
  publishedHeights (s.trace.drop before.length)

/-- `INGEST_BYTES(bs)` (R230). -/
def ingestBytes (bs : List Byte) (s : State) : Host.Outcome State Fault Refusal :=
  andThen (drain (feed bs s)) fun t => .next (t.returns (.published (publishedSince s.trace t)))

/-- `DECODE(frame)` (R160) as an operation: the event is returned and nothing is applied. -/
def decodeFrame (f : Frame) (s : State) : Host.Outcome State Fault Refusal :=
  if f.wf = true then .next (reportDecoding (telemetryOf f) s) else .refused .notAFrame

/-- The trace of RESET (R35): the output writes, under `Outputs` only. -/
def resetTrace (cfg : Cfg) : List Action :=
  match cfg.strategy with
  | .command => []
  | .outputs => [.set .up false, .set .down false]

/-- `RESET(cfg)` (R300, R35): a new instance's state; what the host has yet to invoke and what the outside world has
already seen are no part of it. -/
def resetOp (cfg : Cfg) (s : State) : State :=
  { State.resetWith cfg with pending := s.pending, trace := s.trace ++ resetTrace cfg }

/-- One host operation (R93). -/
def runOp (op : HostOp) (s : State) : Host.Outcome State Fault Refusal :=
  match op with
  | .feed bs => .next ((feed bs s).returns .nothing)
  | .nextFrame => .next ((nextFrame s).2.returns (.frame (nextFrame s).1))
  | .encode c => exec c.toInstr s
  | .decode f => decodeFrame f s
  | .setTarget h => setTarget h s
  | .positionUpdate h => .next ((positionUpdate h s).returns .nothing)
  | .tick => .next ((tick s).returns .nothing)
  | .ingestBytes bs => ingestBytes bs s
  | .requestHeight h => setTarget h s
  | .queryLimits => .next ((emit .queryLimits s).returns .nothing)
  | .queryMemoryAndHeight => .next ((emit .queryMemoryAndHeight s).returns .nothing)
  | .reset cfg => .next (resetOp cfg s)

/-- One step: the operation the host invokes next; with none, the block holds its state (60_exceptions.md R281). -/
def stepOp (s : State) : Host.Outcome State Fault Refusal :=
  match s.pending with
  | [] => .next s
  | op :: rest => runOp op (s.setPending rest)

/-- The state in which the host is about to present a table word's instruction, and nothing lies before it: a Command as
the argument of ENCODE, any other bytes as the argument of INGEST_BYTES with an empty buffer (notes/assumptions/5.md). -/
def presentWord (s : State) (nbits w : Nat) : State :=
  let bs := tableWordBytes nbits w
  match decode s.cfg.ids bs with
  | .instr i =>
    match i.command? with
    | some c => s.setPending (.encode c :: s.pending)
    | none => (s.setBuf []).setPending (.ingestBytes bs :: s.pending)
  | .reject _ => (s.setBuf []).setPending (.ingestBytes bs :: s.pending)

end Sys2Proof.Machine
end

