-- ==== Sys2Proof/Machine/Step.lean ====
section
/-! DEFINITION. The step, and where it fetches its next instruction. -/

namespace Sys2Proof.Machine

/-- One step of the machine: one host operation, run to completion (00_scope.md R8). -/
def step (s : State) : Host.Outcome State Fault Refusal := stepOp s

/-- `s` with the instruction of an opcode-table word placed where the next step takes it from. -/
def State.withFetchWord (s : State) (nbits w : Nat) : State := presentWord s nbits w

end Sys2Proof.Machine
end

