-- ==== Sys2Proof/Safety.lean ====
section
/-! DEFINITION. What counts as a safe state and a safe run, in the terms the claims use. -/

namespace Sys2Proof.Machine

/-- `state and outputs agree` (10_state.md R26, R33): under `Outputs` the outputs say what `motion` says; under
`Command` they hold `false`. -/
def OutputsAgree (s : State) : Prop :=
  match s.cfg.strategy with
  | .command => s.up = false ∧ s.down = false
  | .outputs =>
    match s.motion with
    | .seeking d => s.output d = true ∧ s.output d.opp = false
    | .idle => s.up = false ∧ s.down = false
    | .stopping => s.up = false ∧ s.down = false

/-- What holds of the state at every operation boundary: R20 and R21 (the buffer fits), R23 (the limits are known
together), R25 (`Stopping` is never seen), R33 (outputs agree, a seek knows its heights), R27 (the counter fits). -/
structure BoundaryInv (s : State) : Prop where
  bufFits : Memory.wf s.cfg.bufCap s.buf = true
  limitsTogether : s.maxHeight.isSome = s.minHeight.isSome
  notStopping : s.motion ≠ .stopping
  outputsAgree : OutputsAgree s
  seekKnowsHeights : ∀ d, s.motion = .seeking d → s.currentHeight.isSome = true ∧ s.targetHeight.isSome = true
  ticksFit : s.stateTicks < 2 ^ s.cfg.tickW

/-- The outputs `(up, down)` after one action. -/
def outputsAfterAction (o : Bool × Bool) : Action → Bool × Bool
  | .set .up b => (b, o.2)
  | .set .down b => (o.1, b)
  | .emit _ _ => o
  | .publish _ => o
  | .enter _ => o
  | .log _ => o

/-- The outputs after a trace. -/
def outputsAfter (o : Bool × Bool) (tr : List Action) : Bool × Bool := tr.foldl outputsAfterAction o

/-- At every point of a trace the two outputs are not both asserted (R32). -/
def exclusiveThroughout : Bool × Bool → List Action → Bool
  | o, [] => !(o.1 && o.2)
  | o, a :: rest => !(o.1 && o.2) && exclusiveThroughout (outputsAfterAction o a) rest

/-- The trace so far never asserts both outputs, and under `Outputs` it leaves the outputs as the state has them. -/
def TraceSafe (s : State) : Prop :=
  exclusiveThroughout (false, false) s.trace = true ∧
    (s.cfg.strategy = .outputs → outputsAfter (false, false) s.trace = (s.up, s.down))

/-- A host operation whose arguments are values of their declared types (R93): DECODE is given a Frame (R28). -/
def legalOp : HostOp → Bool
  | .decode f => f.wf
  | .feed _ => true
  | .nextFrame => true
  | .encode _ => true
  | .setTarget _ => true
  | .positionUpdate _ => true
  | .tick => true
  | .ingestBytes _ => true
  | .requestHeight _ => true
  | .queryLimits => true
  | .queryMemoryAndHeight => true
  | .reset _ => true

/-- A run of `k` steps from `s` that never stops and is safe at every boundary. -/
def SafeRun : Nat → State → Prop
  | 0, s => BoundaryInv s ∧ TraceSafe s
  | k + 1, s => BoundaryInv s ∧ TraceSafe s ∧ ∃ t, step s = .next t ∧ SafeRun k t

/-! ## The traces the rules write out, for the claims to name -/

/-- The trace of `drive(d)` (R188). -/
def driveActions (cfg : Cfg) (d : Direction) : List Action :=
  match cfg.strategy with
  | .outputs => [.set d.opp false, .set d true]
  | .command => [.emit (moveCommand d) (encodeCommand cfg.ids (moveCommand d))]

/-- The trace of `stop_seq()` (R189). -/
def stopActions (cfg : Cfg) : List Action :=
  match cfg.strategy with
  | .outputs => [.enter .stopping, .set .up false, .set .down false, .enter .idle]
  | .command => [.enter .stopping, .emit .stop (encodeCommand cfg.ids .stop), .enter .idle]

/-- The trace of `reverse(d0, d)` (R190). -/
def reverseActions (cfg : Cfg) (d : Direction) : List Action :=
  match cfg.strategy with
  | .outputs => .enter (.seeking d) :: driveActions cfg d
  | .command => .emit .stop (encodeCommand cfg.ids .stop) :: .enter (.seeking d) :: driveActions cfg d

/-- The outputs `(up, down)` with direction `d` engaged under a strategy: one asserted under `Outputs`, as they were under
`Command`. -/
def outputsDriving (s : State) (d : Direction) : Bool × Bool :=
  match s.cfg.strategy with
  | .outputs => (decide (d = .up), decide (d = .down))
  | .command => (s.up, s.down)

/-- The outputs after a stop. -/
def outputsStopped (s : State) : Bool × Bool :=
  match s.cfg.strategy with
  | .outputs => (false, false)
  | .command => (s.up, s.down)

/-! ## Taking frames from the buffer (20_memory.md R72) -/

/-- NEXT_FRAME repeated until it returns `None`: the frames in order, and the state after. -/
def takeFramesLoop : Nat → State → List Frame × State
  | 0, s => ([], s)
  | fuel + 1, s =>
    match nextFrame s with
    | (none, s1) => ([], s1)
    | (some f, s1) => (f :: (takeFramesLoop fuel s1).1, (takeFramesLoop fuel s1).2)

/-- Each frame returned removes bytes, so a fuel greater than the buffer's length is never used up. -/
def takeFrames (s : State) : List Frame × State := takeFramesLoop (s.buf.length + 1) s

/-- For each chunk in turn, FEED it and take the frames. -/
def feedChunks : List (List Byte) → State → List Frame × State
  | [], s => ([], s)
  | c :: cs, s =>
    let now := takeFrames (feed c s)
    let later := feedChunks cs now.2
    (now.1 ++ later.1, later.2)

/-- For each chunk in turn, INGEST_BYTES. -/
def ingestChunks : List (List Byte) → State → Host.Outcome State Fault Refusal
  | [], s => .next s
  | c :: cs, s => andThen (ingestBytes c s) (ingestChunks cs)

/-- A frame with no end byte at any index `2` to `n-2` (R140): it survives the terminator search. -/
def noInnerEnd (bs : List Byte) : Bool := !((bs.drop 2).dropLast).contains endByte

/-- The height of a Frame that is a HeightReading (R160, R161). -/
def heightRead (f : Frame) : Option Height :=
  match telemetryOf f with
  | .event (.heightReading h) => some h
  | .event (.memorySlotReading _ _) => none
  | .event (.limitReading _ _) => none
  | .underflow _ _ => none
  | .nothing => none

/-- The heights of the HeightReadings among some Frames, in order. -/
def heightsRead (fs : List Frame) : List Height := fs.filterMap heightRead

/-- The heights that differ from the one known when they arrive (R232), each then being the one known. -/
def changesFrom : Option Height → List Height → List Height
  | _, [] => []
  | known, h :: hs => if known = some h then changesFrom known hs else h :: changesFrom (some h) hs

/-- No two neighbours are equal. -/
def neighboursDiffer : List Height → Bool
  | [] => true
  | [_] => true
  | a :: b :: rest => decide (a ≠ b) && neighboursDiffer (b :: rest)

end Sys2Proof.Machine
end

