-- ==== Sys2Proof/Certificates/Slice0/Obligations.lean ====
section
/-! DEFINITION. The statements for the provers. Each docstring names the rule or section of the spec it formalises. -/

open Sys2Proof Sys2Proof.Machine

/-! ## The frame format, encoding and decoding -/

/-- 30_encoding.md sections 1 to 3: decoding the encoding of a well-formed instruction gives it back, with every operand.
The command ids are assumed to differ from each other, which R5 does not ask for (the model's choice,
notes/assumptions/12.md). -/
def Obligations.DecodeEncodeRoundTrip : Prop :=
  ∀ (ids : CommandIds) (i : Instr), ids.distinct = true → i.wf = true → decode ids (encode ids i) = .instr i

/-- 30_encoding.md sections 1 to 4: bytes that decode to an instruction are exactly its encoding, whatever the command
ids, so each word has one meaning and nothing falls through to a neighbour. -/
def Obligations.DecodedBytesAreTheEncoding : Prop :=
  ∀ (ids : CommandIds) (bs : List Byte) (i : Instr),
    decode ids bs = .instr i → i.wf = true ∧ encode ids i = bs

/-- R88's and 41_telemetry.md's frames, written out, decode to the rows they stand for (default command ids:
notes/assumptions/3.md). -/
def Obligations.WrittenOutFramesDecode : Prop :=
  decode Config.defaultIds [0xF1#8, 0xF1#8, 0x01#8, 0x00#8, 0x01#8, 0x7E#8] = .instr .moveUp ∧
  decode Config.defaultIds [0xF1#8, 0xF1#8, 0x1B#8, 0x02#8, 0x02#8, 0xBC#8, 0xDB#8, 0x7E#8] = .instr (.goToHeight 700#16) ∧
  decode Config.defaultIds [0xF2#8, 0xF2#8, 0x01#8, 0x03#8, 0x02#8, 0xBC#8, 0x00#8, 0xC2#8, 0x7E#8] =
    .instr (.heightReading 700#16 0#8) ∧
  decode Config.defaultIds [0xF2#8, 0xF2#8, 0x07#8, 0x04#8, 0x04#8, 0xD8#8, 0x02#8, 0x6C#8, 0x55#8, 0x7E#8] =
    .instr (.limitReading 1240#16 620#16)

/-- R83: the checksum byte is the sum of the bytes `f[2..n-3]` modulo 256, in both directions: of every span that
validates, and of every frame encoded; a span whose checksum byte is another value does not validate; with no payload
it is the command id. -/
def Obligations.ChecksumIsTheSumModulo256 : Prop :=
  (∀ (span : List Byte) (m : Marker), validSpan span m = .ok →
    (span.getD (span.length - 2) 0#8).toNat = byteSum ((span.drop 2).take (span.length - 4)) % 256) ∧
  (∀ (ids : CommandIds) (i : Instr),
    ((encode ids i).getD ((encode ids i).length - 2) 0#8).toNat =
      byteSum (((encode ids i).drop 2).take ((encode ids i).length - 4)) % 256) ∧
  (∀ (span : List Byte) (m : Marker),
    (span.getD (span.length - 2) 0#8).toNat ≠ byteSum ((span.drop 2).take (span.length - 4)) % 256 →
      validSpan span m ≠ .ok) ∧
  (∀ (m : Marker) (cid : Byte), (frameWith m cid []).checksum = cid)

/-- 40_framecodec.md section 2 (the table of checks, in the spec's own order D23, with D3 and D4): exactly when a span is a
frame, and which reason a failing one is given. -/
def Obligations.SpanChecksInOrder : Prop :=
  ∀ (span : List Byte) (m : Marker),
    let n := span.length
    let marked : Prop := span.take 2 = m.bytes ∧ span.getD (n - 1) 0#8 = 0x7E#8
    let summed : Prop := (span.getD (n - 2) 0#8).toNat = byteSum ((span.drop 2).take (n - 4)) % 256
    let counted : Prop := (span.getD 3 0#8).toNat = n - 6
    (validSpan span m = .bad .tooShort ↔ n < 6) ∧
    (validSpan span m = .bad .marker ↔ 6 ≤ n ∧ ¬marked) ∧
    (validSpan span m = .bad .checksum ↔ 6 ≤ n ∧ marked ∧ ¬summed) ∧
    (validSpan span m = .bad .length ↔ 6 ≤ n ∧ marked ∧ summed ∧ ¬counted) ∧
    (validSpan span m = .ok ↔ 6 ≤ n ∧ marked ∧ summed ∧ counted)

/-- 40_framecodec.md section 3: ENCODE is the encoding of the Command's row, its output validates as an outgoing frame,
and the frame read back has the Command's id and payload. -/
def Obligations.EncodedCommandIsAValidFrame : Prop :=
  ∀ (ids : CommandIds) (c : Command),
    encodeCommand ids c = encode ids c.toInstr ∧
    validSpan (encodeCommand ids c) .outgoing = .ok ∧
    (readFrame .outgoing (encodeCommand ids c)).commandId = c.id ids ∧
    (readFrame .outgoing (encodeCommand ids c)).payload = c.payload

/-- 40_framecodec.md section 4, the round trip: the payload of an encoded GoToHeight, read as a whole sequence,
reconstructs the height, for every height. -/
def Obligations.GoToHeightRoundTrip : Prop :=
  ∀ (ids : CommandIds) (h : Height), ∃ f,
    frameOfSpan (encodeCommand ids (.goToHeight h)) .outgoing = some f ∧
    f.payload.length = 2 ∧
    (f.payload.getD 0 0#8).toNat * 256 + (f.payload.getD 1 0#8).toNat = h.toNat

/-- 40_framecodec.md section 4: an echo of GoToHeight with the incoming marker is returned by NEXT_FRAME exactly when no
byte of height or checksum is `0x7E`. -/
def Obligations.EchoReturnedUnlessItHoldsAnEndByte : Prop :=
  ∀ (s : State) (h : Height),
    s.buf = [0xF2#8, 0xF2#8] ++ (encodeCommand s.cfg.ids (.goToHeight h)).drop 2 →
    ((nextFrame s).1.isSome = true ↔
      h.toNat / 256 ≠ 0x7E ∧ h.toNat % 256 ≠ 0x7E ∧ (29 + h.toNat / 256 + h.toNat % 256) % 256 ≠ 0x7E)

/-! ## The outgoing rows -/

/-- 40_framecodec.md section 3, GoToHeight (ENCODE of the row; that it is ENCODE and not an emission is
notes/assumptions/7.md): the eight bytes, for every height; nothing but the result changes. -/
def Obligations.GoToHeightReturnsItsFrame : Prop :=
  ∀ (s : State) (h : Height),
    exec (.goToHeight h) s =
      .next { s with
        result := .bytes [0xF1#8, 0xF1#8, 0x1B#8, 0x02#8, BitVec.ofNat 8 (h.toNat / 256), BitVec.ofNat 8 (h.toNat % 256),
          BitVec.ofNat 8 (29 + h.toNat / 256 + h.toNat % 256), 0x7E#8] }

/-- 40_framecodec.md section 3: the five Commands without payload return `[0xF1, 0xF1, c, 0x00, c, 0x7E]` with the
configured id `c`; nothing but the result changes. That they have no payload is the spec's general knowledge (D7,
notes/assumptions/3.md). -/
def Obligations.PlainCommandsReturnTheirFrames : Prop :=
  ∀ s : State,
    exec .moveUp s =
      .next { s with result := .bytes [0xF1#8, 0xF1#8, s.cfg.ids.moveUp, 0x00#8, s.cfg.ids.moveUp, 0x7E#8] } ∧
    exec .moveDown s =
      .next { s with result := .bytes [0xF1#8, 0xF1#8, s.cfg.ids.moveDown, 0x00#8, s.cfg.ids.moveDown, 0x7E#8] } ∧
    exec .stop s =
      .next { s with result := .bytes [0xF1#8, 0xF1#8, s.cfg.ids.stop, 0x00#8, s.cfg.ids.stop, 0x7E#8] } ∧
    exec .queryMemoryAndHeight s =
      .next { s with
        result := .bytes [0xF1#8, 0xF1#8, s.cfg.ids.queryMemoryAndHeight, 0x00#8, s.cfg.ids.queryMemoryAndHeight, 0x7E#8] } ∧
    exec .queryLimits s =
      .next { s with
        result := .bytes [0xF1#8, 0xF1#8, s.cfg.ids.queryLimits, 0x00#8, s.cfg.ids.queryLimits, 0x7E#8] }

/-- 20_memory.md section 3 (R68: ENCODE reads no state and writes none): the frame of the six Commands. Every field but the
result, every action and every byte of memory is as before. -/
def Obligations.CommandsLeaveTheStateAlone : Prop :=
  ∀ (i : Instr) (c : Command) (s : State), i.command? = some c →
    ∃ t, exec i s = .next t ∧
      t.result = .bytes (encode s.cfg.ids i) ∧
      t.cfg = s.cfg ∧ t.currentHeight = s.currentHeight ∧ t.maxHeight = s.maxHeight ∧ t.minHeight = s.minHeight ∧
      t.targetHeight = s.targetHeight ∧ t.motion = s.motion ∧ t.up = s.up ∧ t.down = s.down ∧
      t.stateTicks = s.stateTicks ∧ t.pending = s.pending ∧ t.trace = s.trace ∧
      ∀ a, t.buf.read a = s.buf.read a

/-! ## The telemetry rows -/

/-- 43_session.md section 1, HeightReading: a reading equal to the current height changes nothing but the result; a new one
is published and recorded, and then: a seek whose target it reaches stops; a seek still out of band goes on (with the
Move command again under `Command` and `REPEAT_MOVE`); anything else changes no more. Publish before control is D20,
the stop sequence within the operation D13. -/
def Obligations.HeightReadingCompletes : Prop :=
  ∀ (s : State) (h : Height) (extra : Byte),
    exec (.heightReading h extra) s = .next
      (let r : OpResult := .event (some (.heightReading h))
       if s.currentHeight = some h then { s with result := r }
       else
        match s.motion, s.targetHeight with
        | .seeking d, some t =>
          if 10 * (max h.toNat t.toNat - min h.toNat t.toNat) ≤ 8 * s.cfg.unitScale then
            { s with
              currentHeight := some h, motion := .idle, stateTicks := 0, up := (outputsStopped s).1,
              down := (outputsStopped s).2, trace := s.trace ++ .publish h :: stopActions s.cfg, result := r }
          else if s.cfg.strategy = .command ∧ s.cfg.repeatMove = true then
            { s with
              currentHeight := some h, trace := s.trace ++ .publish h :: driveActions s.cfg d, result := r }
          else { s with currentHeight := some h, trace := s.trace ++ [.publish h], result := r }
        | _, _ => { s with currentHeight := some h, trace := s.trace ++ [.publish h], result := r })

/-- 43_session.md section 1, LimitReading (D21): both limits are stored as received, the maximum first; nothing is
published, nothing else changes. -/
def Obligations.LimitReadingStoresBothLimits : Prop :=
  ∀ (s : State) (mx mn : Height),
    exec (.limitReading mx mn) s =
      .next { s with maxHeight := some mx, minHeight := some mn, result := .event (some (.limitReading mx mn)) }

/-- 41_telemetry.md and 43_session.md, the four memory-slot rows: with two payload bytes or more (D30) the event is DECODE's
result and nothing else changes (D21); with fewer, an UnderflowError is logged and there is no event. -/
def Obligations.MemorySlotReadingsComplete : Prop :=
  (∀ (s : State) (hi lo : Byte) (rest : List Byte),
    let slot (cid : Byte) : State := { s with result := .event (some (.memorySlotReading cid (heightOf hi lo))) }
    exec (.memorySlotReading37 (hi :: lo :: rest)) s = .next (slot 37#8) ∧
    exec (.memorySlotReading38 (hi :: lo :: rest)) s = .next (slot 38#8) ∧
    exec (.memorySlotReading39 (hi :: lo :: rest)) s = .next (slot 39#8) ∧
    exec (.memorySlotReading40 (hi :: lo :: rest)) s = .next (slot 40#8)) ∧
  (∀ (s : State) (p : List Byte), p.length < 2 →
    let short (cid : Byte) : State :=
      { s with trace := s.trace ++ [.log (.underflowError cid p.length)], result := .event none }
    exec (.memorySlotReading37 p) s = .next (short 37#8) ∧
    exec (.memorySlotReading38 p) s = .next (short 38#8) ∧
    exec (.memorySlotReading39 p) s = .next (short 39#8) ∧
    exec (.memorySlotReading40 p) s = .next (short 40#8))

/-- The frame of the six telemetry rows (43_session.md section 1): every byte of memory, the configuration, the target and
the pending operations are as before; only LimitReading writes the limits; only HeightReading writes the height,
`motion`, the outputs and the counter; and the actions before stay. -/
def Obligations.TelemetryRowsFrame : Prop :=
  ∀ (i : Instr) (s : State), i.command? = none →
    ∃ t, exec i s = .next t ∧
      (∀ a, t.buf.read a = s.buf.read a) ∧ t.cfg = s.cfg ∧ t.targetHeight = s.targetHeight ∧ t.pending = s.pending ∧
      (∃ acts, t.trace = s.trace ++ acts) ∧
      ((∀ mx mn, i ≠ .limitReading mx mn) → t.maxHeight = s.maxHeight ∧ t.minHeight = s.minHeight) ∧
      ((∀ h x, i ≠ .heightReading h x) →
        t.currentHeight = s.currentHeight ∧ t.motion = s.motion ∧ t.up = s.up ∧ t.down = s.down ∧
          t.stateTicks = s.stateTicks)

/-- 41_telemetry.md section of R160, in Frame-payload indices (D2, D30): what DECODE answers for every Frame. -/
def Obligations.DecodeSelectsByIdAndLength : Prop :=
  ∀ f : Frame, f.wf = true →
    let p (i : Nat) : Nat := (f.payload.getD i 0#8).toNat
    let slot : Prop := f.commandId = 37#8 ∨ f.commandId = 38#8 ∨ f.commandId = 39#8 ∨ f.commandId = 40#8
    (f.commandId = 1#8 ∧ f.length = 3#8 →
      ∃ h : Height, telemetryOf f = .event (.heightReading h) ∧ h.toNat = p 0 * 256 + p 1) ∧
    (slot ∧ 2 ≤ f.length.toNat →
      ∃ h : Height, telemetryOf f = .event (.memorySlotReading f.commandId h) ∧ h.toNat = p 0 * 256 + p 1) ∧
    (slot ∧ f.length.toNat < 2 → telemetryOf f = .underflow f.commandId f.length.toNat) ∧
    (f.commandId = 7#8 ∧ f.length = 4#8 →
      ∃ mx mn : Height, telemetryOf f = .event (.limitReading mx mn) ∧
        mx.toNat = p 0 * 256 + p 1 ∧ mn.toNat = p 2 * 256 + p 3)

/-- R168: a valid Frame whose id is not 1, 7, 37, 38, 39 or 40, or is 1 with another length than 3, or 7 with another length
than 4, gives no event, no action, no log and no state change, whether DECODE is asked or the frame is received. -/
def Obligations.UnrecognisedFramesGiveNothing : Prop :=
  ∀ f : Frame, f.wf = true →
    ((f.commandId ≠ 1#8 ∧ f.commandId ≠ 7#8 ∧ f.commandId ≠ 37#8 ∧ f.commandId ≠ 38#8 ∧ f.commandId ≠ 39#8 ∧
        f.commandId ≠ 40#8) ∨
      (f.commandId = 1#8 ∧ f.length ≠ 3#8) ∨ (f.commandId = 7#8 ∧ f.length ≠ 4#8)) →
    (∀ s, decodeFrame f s = .next { s with result := .event none }) ∧
    (∀ s, (nextFrame s).1 = some f → drain s = drain (nextFrame s).2)

/-- 43_session.md section 1 (the loop of INGEST_BYTES): running the row a Frame selects is DECODE followed by `apply`, and a
Frame that selects no row is one DECODE gives nothing for. -/
def Obligations.RunningAFrameIsDecodeThenApply : Prop :=
  ∀ (f : Frame) (s : State), f.wf = true →
    match instrOfIncoming f with
    | none => telemetryOf f = .nothing
    | some i =>
      (∃ e, telemetryOf f = .event e ∧ exec i s = .next (applyEvent e (reportDecoding (.event e) s))) ∨
      (∃ cid n, telemetryOf f = .underflow cid n ∧ exec i s = .next (reportDecoding (.underflow cid n) s))

/-! ## The buffer and the framer -/

/-- R122: the marker search finds the least index, and finds nothing exactly when there is no marker. -/
def Obligations.MarkerSearchFindsTheEarliest : Prop :=
  ∀ b : List Byte,
    let at_ (i : Nat) : Prop := i + 1 < b.length ∧ b[i]? = some 0xF2#8 ∧ b[i + 1]? = some 0xF2#8
    (∀ i, findMarker b = some i ↔ at_ i ∧ ∀ j, j < i → ¬at_ j) ∧ (findMarker b = none ↔ ∀ i, ¬at_ i)

/-- 40_framecodec.md section 2: the terminator is the first end byte past the marker, whatever the length byte says; without
one, NEXT_FRAME returns `None` and consumes nothing but the garbage before the marker (removing it at once is D6, log
entry 15); after more bytes the same candidate is the one looked at. -/
def Obligations.TerminatorSearchFindsTheFirst : Prop :=
  (∀ (b : List Byte) (j : Nat),
    findEnd b = some j ↔ 2 ≤ j ∧ b[j]? = some 0x7E#8 ∧ ∀ k, 2 ≤ k → k < j → b[k]? ≠ some 0x7E#8) ∧
  (∀ b : List Byte, findEnd b = none ↔ ∀ k, 2 ≤ k → b[k]? ≠ some 0x7E#8) ∧
  (∀ (s : State) (garbage rest : List Byte), findMarker s.buf = some garbage.length →
    s.buf = garbage ++ [0xF2#8, 0xF2#8] ++ rest → 0x7E#8 ∉ rest →
      nextFrame s = (none, { s with buf := [0xF2#8, 0xF2#8] ++ rest }) ∧
        ∀ more, findMarker ([0xF2#8, 0xF2#8] ++ rest ++ more) = some 0)

/-- 40_framecodec.md section 2 (D6): with no marker in the buffer everything but a trailing `0xF2` is dropped, silently. -/
def Obligations.NoMarkerKeepsATrailingHalf : Prop :=
  (∀ (s : State) (b : List Byte), s.buf = b ++ [0xF2#8] → findMarker s.buf = none →
    nextFrame s = (none, { s with buf := [0xF2#8] })) ∧
  (∀ s : State, s.buf.getLast? ≠ some 0xF2#8 → findMarker s.buf = none → nextFrame s = (none, { s with buf := [] }))

/-- R128: a candidate that fails loses only its leading byte, a FrameError with the reason is logged, and the search goes on
in the same NEXT_FRAME. -/
def Obligations.FailedCandidateLosesOneByte : Prop :=
  ∀ (s : State) (span rest : List Byte) (why : SpanFault),
    s.buf = span ++ rest → span.take 2 = [0xF2#8, 0xF2#8] → findEnd span = some (span.length - 1) →
    validSpan span .incoming = .bad why →
      nextFrame s = nextFrame { s with buf := s.buf.drop 1, trace := s.trace ++ [.log (.frameError why)] }

/-- 40_framecodec.md sections 2 and 4, success and first match wins: a whole Frame at the head of the buffer with no end byte inside is returned, its span and
nothing else is consumed, and what follows stays in order; markers inside it are not looked at. -/
def Obligations.WholeFrameIsReturned : Prop :=
  ∀ (s : State) (f : Frame) (rest : List Byte),
    f.wf = true → f.startMarker = .incoming → noInnerEnd f.bytes = true → s.buf = f.bytes ++ rest →
      nextFrame s = (some f, { s with buf := rest })

/-- 10_state.md section 2 and 40_framecodec.md section 4: whatever NEXT_FRAME returns is a valid incoming Frame that stood
whole in the buffer, with no end byte inside, and exactly the bytes up to its end are gone. -/
def Obligations.ReturnedFrameStoodInTheBuffer : Prop :=
  ∀ (s : State) (f : Frame), (nextFrame s).1 = some f →
    f.wf = true ∧ f.startMarker = .incoming ∧ noInnerEnd f.bytes = true ∧
    ∃ before, s.buf = before ++ f.bytes ++ (nextFrame s).2.buf

/-- 20_memory.md section 1 and 60_exceptions.md section 1: NEXT_FRAME removes only a prefix, logs only FrameErrors, at most
one per byte removed, and touches nothing else. -/
def Obligations.FramingOnlyDropsAPrefix : Prop :=
  ∀ s : State, ∃ (k : Nat) (whys : List SpanFault),
    k ≤ s.buf.length ∧ whys.length ≤ k ∧
    (nextFrame s).2 =
      { s with buf := s.buf.drop k, trace := s.trace ++ whys.map fun w => .log (.frameError w) }

/-- 40_framecodec.md section 2, termination and waiting: after `None` the buffer is empty, a lone `F2`, or a marker with no
end byte after it; and asking again changes nothing. -/
def Obligations.AfterNoneTheFramerWaits : Prop :=
  ∀ s : State, (nextFrame s).1 = none →
    ((nextFrame s).2.buf = [] ∨ (nextFrame s).2.buf = [0xF2#8] ∨
      ∃ rest, (nextFrame s).2.buf = 0xF2#8 :: 0xF2#8 :: rest ∧ 0x7E#8 ∉ rest) ∧
    nextFrame (nextFrame s).2 = (none, (nextFrame s).2)

/-- 40_framecodec.md section 1 (D5): FEED keeps the last `BUF_CAP` bytes of buffer and chunk, logs how many were dropped,
and is the same for the buffer as feeding byte by byte. -/
def Obligations.FeedDropsTheOldest : Prop :=
  (∀ (s : State) (bs : List Byte) (cap : Nat), s.cfg.bufCap = some cap →
    feed bs s =
      (let d := s.buf.length + bs.length - cap
       { s with
         buf := (s.buf ++ bs).drop d,
         trace := s.trace ++ if d = 0 then [] else [.log (.bufferOverflow d)] })) ∧
  (∀ (s : State) (bs : List Byte), s.cfg.bufCap = none → feed bs s = { s with buf := s.buf ++ bs }) ∧
  (∀ (s : State) (bs : List Byte), Memory.wf s.cfg.bufCap s.buf = true →
    (feed bs s).buf = (bs.foldl (fun t b => feed [b] t) s).buf)

/-- 20_memory.md section 3, chunk-boundary independence: however a byte sequence is cut into chunks, if no FEED overflows,
the frames, the logs and the state at the end are those of feeding it as one chunk. -/
def Obligations.FramesDoNotDependOnChunks : Prop :=
  ∀ (s : State) (c : List Byte) (cs : List (List Byte)),
    Memory.wf s.cfg.bufCap (s.buf ++ (c :: cs).flatten) = true →
      feedChunks (c :: cs) s = takeFrames (feed (c :: cs).flatten s)

/-- 20_memory.md section 3, for the whole block: INGEST_BYTES chunk by chunk, if no FEED overflows, leaves the same state and
the same actions in the same order as INGEST_BYTES of the whole, but for the result of the last call. -/
def Obligations.IngestDoesNotDependOnChunks : Prop :=
  ∀ (s : State) (c : List Byte) (cs : List (List Byte)),
    Memory.wf s.cfg.bufCap (s.buf ++ (c :: cs).flatten) = true →
      ∃ t u, ingestChunks (c :: cs) s = .next t ∧ ingestBytes (c :: cs).flatten s = .next u ∧
        t.returns .nothing = u.returns .nothing

/-- 40_framecodec.md section 4, corruption: after any bytes that end in an end byte (a corrupted frame, whatever was changed
in it), a valid frame with no end byte inside that follows is never lost, and the buffer is left empty. -/
def Obligations.CorruptionNeverLosesTheNextFrame : Prop :=
  ∀ (s : State) (junk : List Byte) (f : Frame),
    f.wf = true → f.startMarker = .incoming → noInnerEnd f.bytes = true →
    (junk = [] ∨ junk.getLast? = some 0x7E#8) → s.buf = junk ++ f.bytes →
      (takeFrames s).1.getLast? = some f ∧ (takeFrames s).2.buf = []

/-! ## The motion controller -/

/-- 42_motion.md section 1 (D8): the band is closed and symmetric, `floor(8 * UNIT_SCALE / 10)` counts wide, and at
`UNIT_SCALE = 1` it is equality. -/
def Obligations.BandIsClosedAndSymmetric : Prop :=
  ∀ (cfg : Cfg) (c t : Height),
    (inBand cfg c t = true ↔
      c.toNat ≤ t.toNat + 8 * cfg.unitScale / 10 ∧ t.toNat ≤ c.toNat + 8 * cfg.unitScale / 10) ∧
    inBand cfg c t = inBand cfg t c ∧
    (cfg.unitScale = 1 → (inBand cfg c t = true ↔ c = t))

/-- 42_motion.md section 1 (D10, D11): the range is the desk's limits when both are known and only then, else the safety
range; both intervals are closed. -/
def Obligations.RangeIsLimitsElseSafety : Prop :=
  ∀ (s : State) (h : Height),
    (∀ mx mn, s.maxHeight = some mx → s.minHeight = some mn →
      (inRange s h = true ↔ mn.toNat ≤ h.toNat ∧ h.toNat ≤ mx.toNat)) ∧
    (s.maxHeight = none ∨ s.minHeight = none →
      (inRange s h = true ↔ s.cfg.safeMin.toNat ≤ h.toNat ∧ h.toNat ≤ s.cfg.safeMax.toNat))

/-- 42_motion.md section 2 (D9): a rejected SET_TARGET changes nothing but the log and the result `false`; the range check
comes first, then the unknown position. -/
def Obligations.RejectedTargetChangesNothing : Prop :=
  ∀ (s : State) (h : Height),
    (inRange s h = false →
      setTarget h s = .next { s with trace := s.trace ++ [.log (.rangeError h)], result := .accepted false }) ∧
    (inRange s h = true → s.currentHeight = none →
      setTarget h s = .next { s with trace := s.trace ++ [.log (.noPosition h)], result := .accepted false })

/-- 42_motion.md section 2: an accepted SET_TARGET from `Idle`. In band nothing happens but the new target (D14); else the
seek towards it is entered and the direction engaged, the opposite output first (D15). -/
def Obligations.AcceptedTargetFromIdle : Prop :=
  ∀ (s : State) (c h : Height),
    s.motion = .idle → s.currentHeight = some c → inRange s h = true →
      setTarget h s = .next
        (if inBand s.cfg c h = true then { s with targetHeight := some h, result := .accepted true }
         else
          let d : Direction := if c.toNat < h.toNat then .up else .down
          { s with
            targetHeight := some h, motion := .seeking d, stateTicks := 0, up := (outputsDriving s d).1,
            down := (outputsDriving s d).2, trace := s.trace ++ .enter (.seeking d) :: driveActions s.cfg d,
            result := .accepted true })

/-- 42_motion.md sections 2 and 3: an accepted SET_TARGET during a seek. In band it stops (D13); on the same side only the
target changes, the counter going on (D17); on the other side it reverses, the old direction given up first (D16). -/
def Obligations.AcceptedTargetWhileSeeking : Prop :=
  ∀ (s : State) (d0 : Direction) (c h : Height),
    s.motion = .seeking d0 → s.currentHeight = some c → inRange s h = true →
      setTarget h s = .next
        (let d : Direction := if c.toNat < h.toNat then .up else .down
         if inBand s.cfg c h = true then
          { s with
            targetHeight := some h, motion := .idle, stateTicks := 0, up := (outputsStopped s).1,
            down := (outputsStopped s).2, trace := s.trace ++ stopActions s.cfg, result := .accepted true }
         else if d = d0 then { s with targetHeight := some h, result := .accepted true }
         else
          { s with
            targetHeight := some h, motion := .seeking d, stateTicks := 0, up := (outputsDriving s d).1,
            down := (outputsDriving s d).2, trace := s.trace ++ reverseActions s.cfg d, result := .accepted true })

/-- 42_motion.md section 4: what `evaluate` does in every state, and where it runs: at the end of POSITION_UPDATE with a
changed height, and of TICK when `EVAL_ON_TICK`. That the stop reaches `Idle` within the operation is D13, the repeated
Move D15, where ticks evaluate D19 (log entry 15). -/
def Obligations.EvaluationStopsInBand : Prop :=
  (∀ (s : State) (d : Direction) (c t : Height),
    s.motion = .seeking d → s.currentHeight = some c → s.targetHeight = some t →
      evaluate s =
        if inBand s.cfg c t = true then
          { s with
            motion := .idle, stateTicks := 0, up := (outputsStopped s).1, down := (outputsStopped s).2,
            trace := s.trace ++ stopActions s.cfg }
        else if s.cfg.strategy = .command ∧ s.cfg.repeatMove = true then
          { s with trace := s.trace ++ driveActions s.cfg d }
        else s) ∧
  (∀ s : State, (∀ d, s.motion ≠ .seeking d) ∨ s.currentHeight = none ∨ s.targetHeight = none → evaluate s = s) ∧
  (∀ (s : State) (h : Height), s.currentHeight ≠ some h →
    positionUpdate h s = evaluate { s with currentHeight := some h }) ∧
  (∀ s : State, s.cfg.evalOnTick = true → ∃ n, tick s = evaluate { s with stateTicks := n }) ∧
  (∀ s : State, s.cfg.evalOnTick = false → ∃ n, tick s = { s with stateTicks := n })

/-- 42_motion.md section 4: the only stop condition is the band. Out of band an evaluation leaves `motion`, the outputs and the counter as
they are, also past the target and past the limits; and no evaluation starts a seek or reverses one. -/
def Obligations.EvaluationNeverStopsOutOfBand : Prop :=
  (∀ (s : State) (c t : Height), s.currentHeight = some c → s.targetHeight = some t → inBand s.cfg c t = false →
    (evaluate s).motion = s.motion ∧ (s.cfg.strategy = .outputs → evaluate s = s) ∧
      (evaluate s).stateTicks = s.stateTicks ∧ (evaluate s).up = s.up ∧ (evaluate s).down = s.down) ∧
  (∀ s : State, (evaluate s).motion ≠ s.motion →
    (evaluate s).motion = .idle ∧ ∃ d c t, s.motion = .seeking d ∧ s.currentHeight = some c ∧
      s.targetHeight = some t ∧ inBand s.cfg c t = true)

/-- 42_motion.md section 4 (D19): a position update that repeats the height is none; outside a seek a new one is recorded and
nothing else happens, even with a target out of band. -/
def Obligations.PositionUpdateOutsideASeekOnlyRecords : Prop :=
  ∀ (s : State) (h : Height),
    (s.currentHeight = some h → positionUpdate h s = s) ∧
    ((∀ d, s.motion ≠ .seeking d) → positionUpdate h s = { s with currentHeight := some h })

/-- 42_motion.md section 4 (D18): TICK counts, saturates at `2^TICK_W - 1` and never wraps; without `EVAL_ON_TICK` it does
nothing else. -/
def Obligations.TickCountsAndSaturates : Prop :=
  ∀ s : State, s.stateTicks < 2 ^ s.cfg.tickW →
    (s.cfg.evalOnTick = false → tick s = { s with stateTicks := min (s.stateTicks + 1) (2 ^ s.cfg.tickW - 1) }) ∧
    (s.cfg.evalOnTick = true →
      tick s = evaluate { s with stateTicks := min (s.stateTicks + 1) (2 ^ s.cfg.tickW - 1) })

/-- 42_motion.md section 5, hysteresis: with an even `UNIT_SCALE = 2k`, a request half a unit above the current height is
accepted and asserts nothing. -/
def Obligations.HalfAUnitAwayStartsNothing : Prop :=
  ∀ (s : State) (c h : Height) (k : Nat),
    s.cfg.unitScale = 2 * k → h.toNat = c.toNat + k → s.motion = .idle → s.currentHeight = some c →
    inRange s h = true →
      setTarget h s = .next { s with targetHeight := some h, result := .accepted true }

/-- 42_motion.md section 5, cancellation: a target equal to the current height, in range, stops a seek with both outputs
deasserted. -/
def Obligations.TargetingTheCurrentHeightStops : Prop :=
  ∀ (s : State) (d : Direction) (c : Height),
    s.motion = .seeking d → s.currentHeight = some c → inRange s c = true →
      ∃ t, setTarget c s = .next t ∧ t.motion = .idle ∧ t.stateTicks = 0 ∧ t.targetHeight = some c ∧
        t.trace = s.trace ++ stopActions s.cfg ∧ (s.cfg.strategy = .outputs → t.up = false ∧ t.down = false)

/-! ## Errors -/

/-- 60_exceptions.md section 1 (D22): the five codes, and the whole effect of raising each error: what is dropped and what is
logged; no mode changes, nothing is saved, and control goes on. -/
def Obligations.ErrorsOnlyDropAndLog : Prop :=
  (∀ (s : State) (why : SpanFault), raiseError (.frameError why) s =
    { s with buf := s.buf.drop 1, trace := s.trace ++ [.log (.frameError why)] }) ∧
  (∀ (s : State) (h : Height), raiseError (.rangeError h) s =
    { s with trace := s.trace ++ [.log (.rangeError h)] }) ∧
  (∀ (s : State) (cid : Byte) (n : Nat), raiseError (.underflowError cid n) s =
    { s with trace := s.trace ++ [.log (.underflowError cid n)] }) ∧
  (∀ (s : State) (h : Height), raiseError (.noPosition h) s =
    { s with trace := s.trace ++ [.log (.noPosition h)] }) ∧
  (∀ (s : State) (d : Nat), raiseError (.bufferOverflow d) s =
    { s with buf := s.buf.drop d, trace := s.trace ++ [.log (.bufferOverflow d)] }) ∧
  (∀ (why : SpanFault) (h : Height) (cid : Byte) (n : Nat),
    [ErrorRecord.frameError why, .rangeError h, .underflowError cid n, .noPosition h, .bufferOverflow n].map
      ErrorRecord.code = [1, 2, 3, 4, 5])

/-! ## The session and the step -/

/-- A step takes the operation the host invokes next; with a telemetry frame as the whole chunk, an empty buffer and no end
byte inside the frame, it is `exec` of the instruction the bytes decode to, and then the published heights are returned
(43_session.md section 1; the operations as a field of the state are notes/assumptions/4.md). -/
def Obligations.StepRunsTheDecodedTelemetry : Prop :=
  ∀ (s : State) (bs : List Byte) (rest : List HostOp) (i : Instr),
    s.pending = .ingestBytes bs :: rest → s.buf = [] → Memory.wf s.cfg.bufCap bs = true →
    decode s.cfg.ids bs = .instr i → i.command? = none → noInnerEnd bs = true →
      ∃ t, exec i { s with pending := rest } = .next t ∧
        step s = .next { t with result := .published (publishedHeights (t.trace.drop s.trace.length)) }

/-- A step whose operation is ENCODE of a Command is `exec` of that Command's row; a table word that decodes to a Command,
placed where the step takes its operation from, is run by the next step; and with nothing pending the block holds its
state (30_encoding.md section 5, 60_exceptions.md section 3; notes/assumptions/4.md and 5.md). -/
def Obligations.StepRunsTheCommand : Prop :=
  (∀ (s : State) (c : Command) (rest : List HostOp),
    s.pending = .encode c :: rest → step s = exec c.toInstr { s with pending := rest }) ∧
  (∀ (s : State) (nbits w : Nat) (i : Instr) (c : Command),
    decode s.cfg.ids (tableWordBytes nbits w) = .instr i → i.command? = some c →
      step (s.withFetchWord nbits w) = exec i s) ∧
  (∀ s : State, s.pending = [] → step s = .next s)

/-- 43_session.md section 2: REQUEST_HEIGHT forwards to SET_TARGET and returns whether the target was accepted; that an
unknown height is a rejection is D9 (log entry 15). -/
def Obligations.RequestHeightForwards : Prop :=
  ∀ (s : State) (h : Height) (rest : List HostOp),
    step { s with pending := .requestHeight h :: rest } = step { s with pending := .setTarget h :: rest } ∧
    ∀ t, step { s with pending := .requestHeight h :: rest } = .next t →
      ∃ b, t.result = .accepted b ∧ (b = true ↔ inRange s h = true ∧ s.currentHeight ≠ none)

/-- R237 and R238: the two queries emit one frame each, under both strategies, and read and write no state. -/
def Obligations.QueriesEmitOneFrame : Prop :=
  ∀ (s : State) (rest : List HostOp),
    step { s with pending := .queryLimits :: rest } =
      .next { s with
        pending := rest, trace := s.trace ++ [.emit .queryLimits (encodeCommand s.cfg.ids .queryLimits)],
        result := .nothing } ∧
    step { s with pending := .queryMemoryAndHeight :: rest } =
      .next { s with
        pending := rest,
        trace := s.trace ++ [.emit .queryMemoryAndHeight (encodeCommand s.cfg.ids .queryMemoryAndHeight)],
        result := .nothing }

/-- 10_state.md section 4 and 70_reset_and_hazards.md section 1 (D24): the values after RESET, from any state; its trace is
the two output writes under `Outputs` and nothing under `Command`. -/
def Obligations.ResetLeavesEveryFieldUnset : Prop :=
  ∀ (s : State) (cfg : Cfg) (rest : List HostOp),
    step { s with pending := .reset cfg :: rest } =
      .next
        { cfg := cfg, buf := [], currentHeight := none, maxHeight := none, minHeight := none, targetHeight := none,
          motion := .idle, up := false, down := false, stateTicks := 0, pending := rest,
          trace := s.trace ++
            (match cfg.strategy with
             | .command => []
             | .outputs => [.set .up false, .set .down false]),
          result := .nothing }

/-- 43_session.md section 1: the heights INGEST_BYTES publishes are those HeightReadings of the frames it takes, in order,
that differ from the height known when they arrive, each of them and no other (700, 701, 700 give three); they are its
result; no height is published twice in a row; and the height known after is the last one read (one frame after another
is D20, log entry 15; the result's form is log entry 18). -/
def Obligations.IngestPublishesEachChangeOnce : Prop :=
  ∀ (s t : State) (bs : List Byte), ingestBytes bs s = .next t →
    let read : List Height := heightsRead (takeFrames (feed bs s)).1
    ∃ acts, t.trace = s.trace ++ acts ∧
      publishedHeights acts = changesFrom s.currentHeight read ∧
      t.result = .published (publishedHeights acts) ∧
      neighboursDiffer (s.currentHeight.toList ++ publishedHeights acts) = true ∧
      t.currentHeight = ((publishedHeights acts).getLast?).or s.currentHeight ∧
      t.currentHeight = (read.getLast?).or s.currentHeight

/-! ## The whole machine -/

/-- What holds at every operation boundary holds after every step (10_state.md section 3; D13 for `Stopping`). -/
def Obligations.StepKeepsTheBoundaryState : Prop :=
  ∀ s t : State, BoundaryInv s → step s = .next t → BoundaryInv t

/-- It holds after reset, the trace is empty there (the trace as a field of the state is notes/assumptions/6.md), and the
configuration is legal (which rests on the model's choice of it, notes/assumptions/1.md and 2.md). -/
def Obligations.ResetMeetsTheBoundaryState : Prop :=
  BoundaryInv State.reset ∧ TraceSafe State.reset ∧ State.reset.cfg.legal = true

/-- R32: at every point of every action trace the two outputs are not both asserted. -/
def Obligations.OutputsNeverBothAsserted : Prop :=
  ∀ s t : State, BoundaryInv s → TraceSafe s → step s = .next t → TraceSafe t ∧ ¬(t.up = true ∧ t.down = true)

/-- 93_implementation_defined.md section 1 ("every operation is total on its declared argument types"): from a boundary state
a run of legal operations never stops, and is safe at every boundary. -/
def Obligations.LegalRunsNeverStop : Prop :=
  ∀ s : State, BoundaryInv s → TraceSafe s → (∀ op ∈ s.pending, legalOp op = true) → ∀ k, SafeRun k s

/-- Where a step stops, and nowhere else: SET_TARGET or REQUEST_HEIGHT of an acceptable target in a state whose `motion` is
`Stopping` (which 42_motion.md section 2 calls unreachable), and DECODE of a record that is no Frame
(notes/assumptions/9.md and 10.md: the model's own stops). -/
def Obligations.StepStopsOnlyHere : Prop :=
  ∀ s : State,
    (∀ r, step s = .fault r ↔ r = .stoppingAtBoundary ∧ ∃ h rest,
      (s.pending = .setTarget h :: rest ∨ s.pending = .requestHeight h :: rest) ∧
        s.motion = .stopping ∧ inRange s h = true ∧ s.currentHeight ≠ none) ∧
    (∀ r, step s = .refused r ↔ r = .notAFrame ∧ ∃ f rest, s.pending = .decode f :: rest ∧ f.wf = false)

/-- 42_motion.md section 5, the transitions of `motion` at operation boundaries, each with its operation and its condition.
`motion` stays as it is; or a seek ends in `Idle`, by RESET, by an accepted target in band, or by an evaluation whose
height is in band of the target: a POSITION_UPDATE with a changed height, a TICK under `EVAL_ON_TICK`, or a height
published by INGEST_BYTES; or an accepted target out of band enters a seek from `Idle` or turns one round. -/
def Obligations.MotionChangesOnlyAsListed : Prop :=
  ∀ (s t : State), BoundaryInv s → step s = .next t →
    let asked (h : Height) : Prop := ∃ rest, s.pending = .setTarget h :: rest ∨ s.pending = .requestHeight h :: rest
    let accepted (h c : Height) : Prop :=
      asked h ∧ t.result = .accepted true ∧ t.targetHeight = some h ∧ s.currentHeight = some c
    t.motion = s.motion ∨
    (∃ d, s.motion = .seeking d ∧ t.motion = .idle ∧
      ((∃ cfg rest, s.pending = .reset cfg :: rest) ∨
       (∃ h c, accepted h c ∧ inBand s.cfg c h = true) ∨
       ∃ g, s.targetHeight = some g ∧
        ((∃ h rest, s.pending = .positionUpdate h :: rest ∧ s.currentHeight ≠ some h ∧ inBand s.cfg h g = true) ∨
         (∃ c rest, s.pending = .tick :: rest ∧ s.cfg.evalOnTick = true ∧ s.currentHeight = some c ∧
           inBand s.cfg c g = true) ∨
         (∃ bs rest hs h, s.pending = .ingestBytes bs :: rest ∧ t.result = .published hs ∧ h ∈ hs ∧
           inBand s.cfg h g = true)))) ∨
    (∃ d h c, (s.motion = .idle ∨ s.motion = .seeking d.opp) ∧ t.motion = .seeking d ∧ accepted h c ∧
      inBand s.cfg c h = false ∧ d = dir c h)

/-- Who writes what (10_state.md section 1, D12): each field changes only under the operations named for it. -/
def Obligations.EachFieldHasItsWriters : Prop :=
  ∀ (s t : State) (op : HostOp) (rest : List HostOp), s.pending = op :: rest → step s = .next t →
    let isReset : Prop := ∃ cfg, op = .reset cfg
    let ingests : Prop := ∃ bs, op = .ingestBytes bs
    let targets : Prop := ∃ h, op = .setTarget h ∨ op = .requestHeight h
    let moves : Prop := ∃ h, op = .positionUpdate h
    t.pending = rest ∧
    (t.cfg ≠ s.cfg → isReset) ∧
    (t.buf ≠ s.buf → isReset ∨ ingests ∨ (∃ bs, op = .feed bs) ∨ op = .nextFrame) ∧
    (t.currentHeight ≠ s.currentHeight → isReset ∨ ingests ∨ moves) ∧
    (t.maxHeight ≠ s.maxHeight ∨ t.minHeight ≠ s.minHeight → isReset ∨ ingests) ∧
    (t.targetHeight ≠ s.targetHeight → isReset ∨ (targets ∧ t.result = .accepted true)) ∧
    (t.motion ≠ s.motion ∨ t.up ≠ s.up ∨ t.down ≠ s.down → isReset ∨ ingests ∨ targets ∨ moves ∨
      (op = .tick ∧ s.cfg.evalOnTick = true)) ∧
    (t.stateTicks ≠ s.stateTicks → isReset ∨ ingests ∨ targets ∨ moves ∨ op = .tick)

/-- 10_state.md section 1: the current height is unknown after reset, is known for ever once a reading has arrived (only RESET makes it
unknown again), and is the height last received. -/
def Obligations.CurrentHeightStaysKnown : Prop :=
  State.reset.currentHeight = none ∧
  (∀ (s t : State), step s = .next t → s.currentHeight ≠ none →
    (∀ cfg rest, s.pending ≠ .reset cfg :: rest) → t.currentHeight ≠ none) ∧
  (∀ (s : State) (h : Height) (extra : Byte),
    ∃ t, exec (.heightReading h extra) s = .next t ∧ t.currentHeight = some h)

/-- 42_motion.md section 1 (D15) and 40_framecodec.md section 3: what a step may do on the ports. The trace only grows; under
`Outputs` no Move or Stop is emitted; under `Command` no output is written; GoToHeight is never emitted; and every
frame that goes out is ENCODE of its Command. (RESET is left out: its trace is another statement.) -/
def Obligations.PortsFollowTheStrategy : Prop :=
  ∀ (s t : State), step s = .next t → (∀ cfg rest, s.pending ≠ .reset cfg :: rest) →
    ∃ acts, t.trace = s.trace ++ acts ∧
      (∀ d b, .set d b ∈ acts → s.cfg.strategy = .outputs) ∧
      (∀ c bs, .emit c bs ∈ acts →
        bs = encodeCommand s.cfg.ids c ∧ (∀ h, c ≠ .goToHeight h) ∧
          (s.cfg.strategy = .outputs → c = .queryLimits ∨ c = .queryMemoryAndHeight))

/-! ## The other host operations as steps -/

/-- 30_encoding.md section 5: with another operation than ENCODE pending, a step is that operation, taken from the pending
ones, with the result its signature gives (RESET, REQUEST_HEIGHT and the queries have statements of their own; the
operations as a field of the state are notes/assumptions/4.md, the result as one is 6.md). -/
def Obligations.StepRunsTheHostOperation : Prop :=
  ∀ (s : State) (rest : List HostOp),
    let taken : State := { s with pending := rest }
    (∀ bs, step { s with pending := .feed bs :: rest } = .next { feed bs taken with result := .nothing }) ∧
    step { s with pending := .nextFrame :: rest } =
      .next { (nextFrame taken).2 with result := .frame (nextFrame taken).1 } ∧
    (∀ f, step { s with pending := .decode f :: rest } = decodeFrame f taken) ∧
    (∀ h, step { s with pending := .setTarget h :: rest } = setTarget h taken) ∧
    (∀ h, step { s with pending := .positionUpdate h :: rest } =
      .next { positionUpdate h taken with result := .nothing }) ∧
    step { s with pending := .tick :: rest } = .next { tick taken with result := .nothing } ∧
    (∀ bs, step { s with pending := .ingestBytes bs :: rest } = ingestBytes bs taken)

/-- 41_telemetry.md, DECODE as an operation, of every Frame: an event is the result and nothing is applied; a slot frame too
short to index is logged as an UnderflowError with its id and length, and there is no event; any other frame gives no
event and no log. Which Frame gives what is DecodeSelectsByIdAndLength. -/
def Obligations.DecodeAnswersAndAppliesNothing : Prop :=
  ∀ (s : State) (f : Frame) (rest : List HostOp), f.wf = true →
    step { s with pending := .decode f :: rest } = .next
      (match telemetryOf f with
       | .event e => { s with pending := rest, result := .event (some e) }
       | .underflow _ _ =>
        { s with
          pending := rest, trace := s.trace ++ [.log (.underflowError f.commandId f.length.toNat)],
          result := .event none }
       | .nothing => { s with pending := rest, result := .event none })
end

