-- ==== Sys2Proof/Laws/Codec.lean ====
section
/-! SUPPORT. The codec's arithmetic: heights split and joined, checksums, and the shape of a frame's bytes. -/

namespace Sys2Proof

/-- Splitting a height and joining it again gives it back (R87). -/
@[simp] theorem heightOf_highByte_lowByte (h : Height) : heightOf (highByte h) (lowByte h) = h := by
  apply BitVec.eq_of_toNat_eq
  have := h.isLt
  simp only [heightOf, highByte, lowByte, BitVec.toNat_ofNat]
  omega

/-- The two bytes joined have the value `hi*256 + lo` (R87). -/
@[simp] theorem heightOf_toNat (hi lo : Byte) : (heightOf hi lo).toNat = hi.toNat * 256 + lo.toNat := by
  have := hi.isLt
  have := lo.isLt
  simp only [heightOf, BitVec.toNat_ofNat]
  omega

@[simp] theorem highByte_heightOf (hi lo : Byte) : highByte (heightOf hi lo) = hi := by
  apply BitVec.eq_of_toNat_eq
  have := hi.isLt
  have := lo.isLt
  simp only [highByte, heightOf_toNat, BitVec.toNat_ofNat]
  omega

@[simp] theorem lowByte_heightOf (hi lo : Byte) : lowByte (heightOf hi lo) = lo := by
  apply BitVec.eq_of_toNat_eq
  have := hi.isLt
  have := lo.isLt
  simp only [lowByte, heightOf_toNat, BitVec.toNat_ofNat]
  omega

@[simp] theorem byteSum_nil : byteSum [] = 0 := rfl
@[simp] theorem byteSum_cons (b : Byte) (bs : List Byte) : byteSum (b :: bs) = b.toNat + byteSum bs := rfl
@[simp] theorem byteSum_append (a b : List Byte) : byteSum (a ++ b) = byteSum a + byteSum b := by
  induction a with
  | nil => simp
  | cons x rest ih => simp [ih, Nat.add_assoc]

/-- The checksum's value: the sum modulo 256 (R83). -/
theorem checksumOf_toNat (region : List Byte) : (checksumOf region).toNat = byteSum region % 256 := by
  simp [checksumOf]

@[simp] theorem Marker.bytes_length (m : Marker) : m.bytes.length = 2 := by cases m <;> rfl

/-- A frame has six bytes beside its payload (R80). -/
@[simp] theorem Frame.bytes_length (f : Frame) : f.bytes.length = 6 + f.payload.length := by
  simp [Frame.bytes]; omega

@[simp] theorem Command.command?_toInstr (c : Command) : c.toInstr.command? = some c := by cases c <;> rfl

end Sys2Proof
end

