-- ==== Sys2Proof/Laws/State.lean ====
section
/-! SUPPORT. What each field update of `State` leaves in each field, so that no later proof unfolds a record update. -/

namespace Sys2Proof.Machine.State

variable (s : State)

@[simp] theorem setBuf_cfg (m : Memory) : (s.setBuf m).cfg = s.cfg := rfl
@[simp] theorem setBuf_buf (m : Memory) : (s.setBuf m).buf = m := rfl
@[simp] theorem setBuf_currentHeight (m : Memory) : (s.setBuf m).currentHeight = s.currentHeight := rfl
@[simp] theorem setBuf_maxHeight (m : Memory) : (s.setBuf m).maxHeight = s.maxHeight := rfl
@[simp] theorem setBuf_minHeight (m : Memory) : (s.setBuf m).minHeight = s.minHeight := rfl
@[simp] theorem setBuf_targetHeight (m : Memory) : (s.setBuf m).targetHeight = s.targetHeight := rfl
@[simp] theorem setBuf_motion (m : Memory) : (s.setBuf m).motion = s.motion := rfl
@[simp] theorem setBuf_up (m : Memory) : (s.setBuf m).up = s.up := rfl
@[simp] theorem setBuf_down (m : Memory) : (s.setBuf m).down = s.down := rfl
@[simp] theorem setBuf_stateTicks (m : Memory) : (s.setBuf m).stateTicks = s.stateTicks := rfl
@[simp] theorem setBuf_pending (m : Memory) : (s.setBuf m).pending = s.pending := rfl
@[simp] theorem setBuf_trace (m : Memory) : (s.setBuf m).trace = s.trace := rfl
@[simp] theorem setBuf_result (m : Memory) : (s.setBuf m).result = s.result := rfl

@[simp] theorem setCurrentHeight_cfg (h : Option Height) : (s.setCurrentHeight h).cfg = s.cfg := rfl
@[simp] theorem setCurrentHeight_buf (h : Option Height) : (s.setCurrentHeight h).buf = s.buf := rfl
@[simp] theorem setCurrentHeight_currentHeight (h : Option Height) : (s.setCurrentHeight h).currentHeight = h := rfl
@[simp] theorem setCurrentHeight_maxHeight (h : Option Height) : (s.setCurrentHeight h).maxHeight = s.maxHeight := rfl
@[simp] theorem setCurrentHeight_minHeight (h : Option Height) : (s.setCurrentHeight h).minHeight = s.minHeight := rfl
@[simp] theorem setCurrentHeight_targetHeight (h : Option Height) : (s.setCurrentHeight h).targetHeight = s.targetHeight := rfl
@[simp] theorem setCurrentHeight_motion (h : Option Height) : (s.setCurrentHeight h).motion = s.motion := rfl
@[simp] theorem setCurrentHeight_up (h : Option Height) : (s.setCurrentHeight h).up = s.up := rfl
@[simp] theorem setCurrentHeight_down (h : Option Height) : (s.setCurrentHeight h).down = s.down := rfl
@[simp] theorem setCurrentHeight_stateTicks (h : Option Height) : (s.setCurrentHeight h).stateTicks = s.stateTicks := rfl
@[simp] theorem setCurrentHeight_pending (h : Option Height) : (s.setCurrentHeight h).pending = s.pending := rfl
@[simp] theorem setCurrentHeight_trace (h : Option Height) : (s.setCurrentHeight h).trace = s.trace := rfl
@[simp] theorem setCurrentHeight_result (h : Option Height) : (s.setCurrentHeight h).result = s.result := rfl

@[simp] theorem setLimits_cfg (mx mn : Height) : (s.setLimits mx mn).cfg = s.cfg := rfl
@[simp] theorem setLimits_buf (mx mn : Height) : (s.setLimits mx mn).buf = s.buf := rfl
@[simp] theorem setLimits_currentHeight (mx mn : Height) : (s.setLimits mx mn).currentHeight = s.currentHeight := rfl
@[simp] theorem setLimits_maxHeight (mx mn : Height) : (s.setLimits mx mn).maxHeight = some mx := rfl
@[simp] theorem setLimits_minHeight (mx mn : Height) : (s.setLimits mx mn).minHeight = some mn := rfl
@[simp] theorem setLimits_targetHeight (mx mn : Height) : (s.setLimits mx mn).targetHeight = s.targetHeight := rfl
@[simp] theorem setLimits_motion (mx mn : Height) : (s.setLimits mx mn).motion = s.motion := rfl
@[simp] theorem setLimits_up (mx mn : Height) : (s.setLimits mx mn).up = s.up := rfl
@[simp] theorem setLimits_down (mx mn : Height) : (s.setLimits mx mn).down = s.down := rfl
@[simp] theorem setLimits_stateTicks (mx mn : Height) : (s.setLimits mx mn).stateTicks = s.stateTicks := rfl
@[simp] theorem setLimits_pending (mx mn : Height) : (s.setLimits mx mn).pending = s.pending := rfl
@[simp] theorem setLimits_trace (mx mn : Height) : (s.setLimits mx mn).trace = s.trace := rfl
@[simp] theorem setLimits_result (mx mn : Height) : (s.setLimits mx mn).result = s.result := rfl

@[simp] theorem setTargetHeight_cfg (h : Option Height) : (s.setTargetHeight h).cfg = s.cfg := rfl
@[simp] theorem setTargetHeight_buf (h : Option Height) : (s.setTargetHeight h).buf = s.buf := rfl
@[simp] theorem setTargetHeight_currentHeight (h : Option Height) : (s.setTargetHeight h).currentHeight = s.currentHeight := rfl
@[simp] theorem setTargetHeight_maxHeight (h : Option Height) : (s.setTargetHeight h).maxHeight = s.maxHeight := rfl
@[simp] theorem setTargetHeight_minHeight (h : Option Height) : (s.setTargetHeight h).minHeight = s.minHeight := rfl
@[simp] theorem setTargetHeight_targetHeight (h : Option Height) : (s.setTargetHeight h).targetHeight = h := rfl
@[simp] theorem setTargetHeight_motion (h : Option Height) : (s.setTargetHeight h).motion = s.motion := rfl
@[simp] theorem setTargetHeight_up (h : Option Height) : (s.setTargetHeight h).up = s.up := rfl
@[simp] theorem setTargetHeight_down (h : Option Height) : (s.setTargetHeight h).down = s.down := rfl
@[simp] theorem setTargetHeight_stateTicks (h : Option Height) : (s.setTargetHeight h).stateTicks = s.stateTicks := rfl
@[simp] theorem setTargetHeight_pending (h : Option Height) : (s.setTargetHeight h).pending = s.pending := rfl
@[simp] theorem setTargetHeight_trace (h : Option Height) : (s.setTargetHeight h).trace = s.trace := rfl
@[simp] theorem setTargetHeight_result (h : Option Height) : (s.setTargetHeight h).result = s.result := rfl

@[simp] theorem setMotion_cfg (m : Motion) : (s.setMotion m).cfg = s.cfg := rfl
@[simp] theorem setMotion_buf (m : Motion) : (s.setMotion m).buf = s.buf := rfl
@[simp] theorem setMotion_currentHeight (m : Motion) : (s.setMotion m).currentHeight = s.currentHeight := rfl
@[simp] theorem setMotion_maxHeight (m : Motion) : (s.setMotion m).maxHeight = s.maxHeight := rfl
@[simp] theorem setMotion_minHeight (m : Motion) : (s.setMotion m).minHeight = s.minHeight := rfl
@[simp] theorem setMotion_targetHeight (m : Motion) : (s.setMotion m).targetHeight = s.targetHeight := rfl
@[simp] theorem setMotion_motion (m : Motion) : (s.setMotion m).motion = m := rfl
@[simp] theorem setMotion_up (m : Motion) : (s.setMotion m).up = s.up := rfl
@[simp] theorem setMotion_down (m : Motion) : (s.setMotion m).down = s.down := rfl
@[simp] theorem setMotion_stateTicks (m : Motion) : (s.setMotion m).stateTicks = 0 := rfl
@[simp] theorem setMotion_pending (m : Motion) : (s.setMotion m).pending = s.pending := rfl
@[simp] theorem setMotion_trace (m : Motion) : (s.setMotion m).trace = s.trace := rfl
@[simp] theorem setMotion_result (m : Motion) : (s.setMotion m).result = s.result := rfl

@[simp] theorem setTicks_cfg (n : Nat) : (s.setTicks n).cfg = s.cfg := rfl
@[simp] theorem setTicks_buf (n : Nat) : (s.setTicks n).buf = s.buf := rfl
@[simp] theorem setTicks_currentHeight (n : Nat) : (s.setTicks n).currentHeight = s.currentHeight := rfl
@[simp] theorem setTicks_maxHeight (n : Nat) : (s.setTicks n).maxHeight = s.maxHeight := rfl
@[simp] theorem setTicks_minHeight (n : Nat) : (s.setTicks n).minHeight = s.minHeight := rfl
@[simp] theorem setTicks_targetHeight (n : Nat) : (s.setTicks n).targetHeight = s.targetHeight := rfl
@[simp] theorem setTicks_motion (n : Nat) : (s.setTicks n).motion = s.motion := rfl
@[simp] theorem setTicks_up (n : Nat) : (s.setTicks n).up = s.up := rfl
@[simp] theorem setTicks_down (n : Nat) : (s.setTicks n).down = s.down := rfl
@[simp] theorem setTicks_stateTicks (n : Nat) : (s.setTicks n).stateTicks = n := rfl
@[simp] theorem setTicks_pending (n : Nat) : (s.setTicks n).pending = s.pending := rfl
@[simp] theorem setTicks_trace (n : Nat) : (s.setTicks n).trace = s.trace := rfl
@[simp] theorem setTicks_result (n : Nat) : (s.setTicks n).result = s.result := rfl

@[simp] theorem setPending_cfg (ops : List HostOp) : (s.setPending ops).cfg = s.cfg := rfl
@[simp] theorem setPending_buf (ops : List HostOp) : (s.setPending ops).buf = s.buf := rfl
@[simp] theorem setPending_currentHeight (ops : List HostOp) : (s.setPending ops).currentHeight = s.currentHeight := rfl
@[simp] theorem setPending_maxHeight (ops : List HostOp) : (s.setPending ops).maxHeight = s.maxHeight := rfl
@[simp] theorem setPending_minHeight (ops : List HostOp) : (s.setPending ops).minHeight = s.minHeight := rfl
@[simp] theorem setPending_targetHeight (ops : List HostOp) : (s.setPending ops).targetHeight = s.targetHeight := rfl
@[simp] theorem setPending_motion (ops : List HostOp) : (s.setPending ops).motion = s.motion := rfl
@[simp] theorem setPending_up (ops : List HostOp) : (s.setPending ops).up = s.up := rfl
@[simp] theorem setPending_down (ops : List HostOp) : (s.setPending ops).down = s.down := rfl
@[simp] theorem setPending_stateTicks (ops : List HostOp) : (s.setPending ops).stateTicks = s.stateTicks := rfl
@[simp] theorem setPending_pending (ops : List HostOp) : (s.setPending ops).pending = ops := rfl
@[simp] theorem setPending_trace (ops : List HostOp) : (s.setPending ops).trace = s.trace := rfl
@[simp] theorem setPending_result (ops : List HostOp) : (s.setPending ops).result = s.result := rfl

@[simp] theorem returns_cfg (r : OpResult) : (s.returns r).cfg = s.cfg := rfl
@[simp] theorem returns_buf (r : OpResult) : (s.returns r).buf = s.buf := rfl
@[simp] theorem returns_currentHeight (r : OpResult) : (s.returns r).currentHeight = s.currentHeight := rfl
@[simp] theorem returns_maxHeight (r : OpResult) : (s.returns r).maxHeight = s.maxHeight := rfl
@[simp] theorem returns_minHeight (r : OpResult) : (s.returns r).minHeight = s.minHeight := rfl
@[simp] theorem returns_targetHeight (r : OpResult) : (s.returns r).targetHeight = s.targetHeight := rfl
@[simp] theorem returns_motion (r : OpResult) : (s.returns r).motion = s.motion := rfl
@[simp] theorem returns_up (r : OpResult) : (s.returns r).up = s.up := rfl
@[simp] theorem returns_down (r : OpResult) : (s.returns r).down = s.down := rfl
@[simp] theorem returns_stateTicks (r : OpResult) : (s.returns r).stateTicks = s.stateTicks := rfl
@[simp] theorem returns_pending (r : OpResult) : (s.returns r).pending = s.pending := rfl
@[simp] theorem returns_trace (r : OpResult) : (s.returns r).trace = s.trace := rfl
@[simp] theorem returns_result (r : OpResult) : (s.returns r).result = r := rfl

@[simp] theorem act_cfg (a : Action) : (s.act a).cfg = s.cfg := rfl
@[simp] theorem act_buf (a : Action) : (s.act a).buf = s.buf := rfl
@[simp] theorem act_currentHeight (a : Action) : (s.act a).currentHeight = s.currentHeight := rfl
@[simp] theorem act_maxHeight (a : Action) : (s.act a).maxHeight = s.maxHeight := rfl
@[simp] theorem act_minHeight (a : Action) : (s.act a).minHeight = s.minHeight := rfl
@[simp] theorem act_targetHeight (a : Action) : (s.act a).targetHeight = s.targetHeight := rfl
@[simp] theorem act_motion (a : Action) : (s.act a).motion = s.motion := rfl
@[simp] theorem act_up (a : Action) : (s.act a).up = s.up := rfl
@[simp] theorem act_down (a : Action) : (s.act a).down = s.down := rfl
@[simp] theorem act_stateTicks (a : Action) : (s.act a).stateTicks = s.stateTicks := rfl
@[simp] theorem act_pending (a : Action) : (s.act a).pending = s.pending := rfl
@[simp] theorem act_trace (a : Action) : (s.act a).trace = s.trace ++ [a] := rfl
@[simp] theorem act_result (a : Action) : (s.act a).result = s.result := rfl

@[simp] theorem consume_cfg (k : Nat) : (s.consume k).cfg = s.cfg := rfl
@[simp] theorem consume_buf (k : Nat) : (s.consume k).buf = s.buf.drop k := rfl
@[simp] theorem consume_currentHeight (k : Nat) : (s.consume k).currentHeight = s.currentHeight := rfl
@[simp] theorem consume_maxHeight (k : Nat) : (s.consume k).maxHeight = s.maxHeight := rfl
@[simp] theorem consume_minHeight (k : Nat) : (s.consume k).minHeight = s.minHeight := rfl
@[simp] theorem consume_targetHeight (k : Nat) : (s.consume k).targetHeight = s.targetHeight := rfl
@[simp] theorem consume_motion (k : Nat) : (s.consume k).motion = s.motion := rfl
@[simp] theorem consume_up (k : Nat) : (s.consume k).up = s.up := rfl
@[simp] theorem consume_down (k : Nat) : (s.consume k).down = s.down := rfl
@[simp] theorem consume_stateTicks (k : Nat) : (s.consume k).stateTicks = s.stateTicks := rfl
@[simp] theorem consume_pending (k : Nat) : (s.consume k).pending = s.pending := rfl
@[simp] theorem consume_trace (k : Nat) : (s.consume k).trace = s.trace := rfl
@[simp] theorem consume_result (k : Nat) : (s.consume k).result = s.result := rfl

@[simp] theorem putOutput_cfg (d : Direction) (b : Bool) : (s.putOutput d b).cfg = s.cfg := by cases d <;> rfl
@[simp] theorem putOutput_buf (d : Direction) (b : Bool) : (s.putOutput d b).buf = s.buf := by cases d <;> rfl
@[simp] theorem putOutput_currentHeight (d : Direction) (b : Bool) : (s.putOutput d b).currentHeight = s.currentHeight := by cases d <;> rfl
@[simp] theorem putOutput_maxHeight (d : Direction) (b : Bool) : (s.putOutput d b).maxHeight = s.maxHeight := by cases d <;> rfl
@[simp] theorem putOutput_minHeight (d : Direction) (b : Bool) : (s.putOutput d b).minHeight = s.minHeight := by cases d <;> rfl
@[simp] theorem putOutput_targetHeight (d : Direction) (b : Bool) : (s.putOutput d b).targetHeight = s.targetHeight := by cases d <;> rfl
@[simp] theorem putOutput_motion (d : Direction) (b : Bool) : (s.putOutput d b).motion = s.motion := by cases d <;> rfl
@[simp] theorem putOutput_stateTicks (d : Direction) (b : Bool) : (s.putOutput d b).stateTicks = s.stateTicks := by cases d <;> rfl
@[simp] theorem putOutput_pending (d : Direction) (b : Bool) : (s.putOutput d b).pending = s.pending := by cases d <;> rfl
@[simp] theorem putOutput_trace (d : Direction) (b : Bool) : (s.putOutput d b).trace = s.trace := by cases d <;> rfl
@[simp] theorem putOutput_result (d : Direction) (b : Bool) : (s.putOutput d b).result = s.result := by cases d <;> rfl
@[simp] theorem putOutput_up_up (b : Bool) : (s.putOutput .up b).up = b := rfl
@[simp] theorem putOutput_up_down (b : Bool) : (s.putOutput .up b).down = s.down := rfl
@[simp] theorem putOutput_down_up (b : Bool) : (s.putOutput .down b).up = s.up := rfl
@[simp] theorem putOutput_down_down (b : Bool) : (s.putOutput .down b).down = b := rfl

/-! A write repeated, or undone by writing back, and the reads of an output. -/

@[simp] theorem output_up : s.output .up = s.up := rfl
@[simp] theorem output_down : s.output .down = s.down := rfl
@[simp] theorem consume_zero : s.consume 0 = s := rfl
@[simp] theorem returns_returns (r r' : OpResult) : (s.returns r).returns r' = s.returns r' := rfl
theorem consume_consume (j k : Nat) : (s.consume j).consume k = s.consume (j + k) := by
  simp [consume, setBuf, Memory.consume, List.drop_drop]
theorem setBuf_self : s.setBuf s.buf = s := rfl

end Sys2Proof.Machine.State
end

