-- ==== Sys2Proof/Laws/Ops.lean ====
section
/-! SUPPORT. The shared operations: what each writes, and that it leaves every other field alone. -/

namespace Sys2Proof.Machine

variable (s : State)

/-! ## Actions -/

@[simp] theorem emit_cfg (c : Command) : (emit c s).cfg = s.cfg := rfl
@[simp] theorem emit_buf (c : Command) : (emit c s).buf = s.buf := rfl
@[simp] theorem emit_currentHeight (c : Command) : (emit c s).currentHeight = s.currentHeight := rfl
@[simp] theorem emit_maxHeight (c : Command) : (emit c s).maxHeight = s.maxHeight := rfl
@[simp] theorem emit_minHeight (c : Command) : (emit c s).minHeight = s.minHeight := rfl
@[simp] theorem emit_targetHeight (c : Command) : (emit c s).targetHeight = s.targetHeight := rfl
@[simp] theorem emit_motion (c : Command) : (emit c s).motion = s.motion := rfl
@[simp] theorem emit_up (c : Command) : (emit c s).up = s.up := rfl
@[simp] theorem emit_down (c : Command) : (emit c s).down = s.down := rfl
@[simp] theorem emit_stateTicks (c : Command) : (emit c s).stateTicks = s.stateTicks := rfl
@[simp] theorem emit_pending (c : Command) : (emit c s).pending = s.pending := rfl
@[simp] theorem emit_result (c : Command) : (emit c s).result = s.result := rfl
@[simp] theorem emit_trace (c : Command) : (emit c s).trace = s.trace ++ [.emit c (encodeCommand s.cfg.ids c)] := rfl

@[simp] theorem publish_cfg (h : Height) : (publish h s).cfg = s.cfg := rfl
@[simp] theorem publish_buf (h : Height) : (publish h s).buf = s.buf := rfl
@[simp] theorem publish_currentHeight (h : Height) : (publish h s).currentHeight = s.currentHeight := rfl
@[simp] theorem publish_maxHeight (h : Height) : (publish h s).maxHeight = s.maxHeight := rfl
@[simp] theorem publish_minHeight (h : Height) : (publish h s).minHeight = s.minHeight := rfl
@[simp] theorem publish_targetHeight (h : Height) : (publish h s).targetHeight = s.targetHeight := rfl
@[simp] theorem publish_motion (h : Height) : (publish h s).motion = s.motion := rfl
@[simp] theorem publish_up (h : Height) : (publish h s).up = s.up := rfl
@[simp] theorem publish_down (h : Height) : (publish h s).down = s.down := rfl
@[simp] theorem publish_stateTicks (h : Height) : (publish h s).stateTicks = s.stateTicks := rfl
@[simp] theorem publish_pending (h : Height) : (publish h s).pending = s.pending := rfl
@[simp] theorem publish_result (h : Height) : (publish h s).result = s.result := rfl
@[simp] theorem publish_trace (h : Height) : (publish h s).trace = s.trace ++ [.publish h] := rfl

@[simp] theorem enter_cfg (m : Motion) : (enter m s).cfg = s.cfg := rfl
@[simp] theorem enter_buf (m : Motion) : (enter m s).buf = s.buf := rfl
@[simp] theorem enter_currentHeight (m : Motion) : (enter m s).currentHeight = s.currentHeight := rfl
@[simp] theorem enter_maxHeight (m : Motion) : (enter m s).maxHeight = s.maxHeight := rfl
@[simp] theorem enter_minHeight (m : Motion) : (enter m s).minHeight = s.minHeight := rfl
@[simp] theorem enter_targetHeight (m : Motion) : (enter m s).targetHeight = s.targetHeight := rfl
@[simp] theorem enter_up (m : Motion) : (enter m s).up = s.up := rfl
@[simp] theorem enter_down (m : Motion) : (enter m s).down = s.down := rfl
@[simp] theorem enter_pending (m : Motion) : (enter m s).pending = s.pending := rfl
@[simp] theorem enter_result (m : Motion) : (enter m s).result = s.result := rfl
@[simp] theorem enter_motion (m : Motion) : (enter m s).motion = m := rfl
@[simp] theorem enter_stateTicks (m : Motion) : (enter m s).stateTicks = 0 := rfl
@[simp] theorem enter_trace (m : Motion) : (enter m s).trace = s.trace ++ [.enter m] := rfl

@[simp] theorem setOutput_cfg (d : Direction) (b : Bool) : (setOutput d b s).cfg = s.cfg := by cases d <;> rfl
@[simp] theorem setOutput_buf (d : Direction) (b : Bool) : (setOutput d b s).buf = s.buf := by cases d <;> rfl
@[simp] theorem setOutput_currentHeight (d : Direction) (b : Bool) : (setOutput d b s).currentHeight = s.currentHeight := by cases d <;> rfl
@[simp] theorem setOutput_maxHeight (d : Direction) (b : Bool) : (setOutput d b s).maxHeight = s.maxHeight := by cases d <;> rfl
@[simp] theorem setOutput_minHeight (d : Direction) (b : Bool) : (setOutput d b s).minHeight = s.minHeight := by cases d <;> rfl
@[simp] theorem setOutput_targetHeight (d : Direction) (b : Bool) : (setOutput d b s).targetHeight = s.targetHeight := by cases d <;> rfl
@[simp] theorem setOutput_motion (d : Direction) (b : Bool) : (setOutput d b s).motion = s.motion := by cases d <;> rfl
@[simp] theorem setOutput_stateTicks (d : Direction) (b : Bool) : (setOutput d b s).stateTicks = s.stateTicks := by cases d <;> rfl
@[simp] theorem setOutput_pending (d : Direction) (b : Bool) : (setOutput d b s).pending = s.pending := by cases d <;> rfl
@[simp] theorem setOutput_result (d : Direction) (b : Bool) : (setOutput d b s).result = s.result := by cases d <;> rfl
@[simp] theorem setOutput_trace (d : Direction) (b : Bool) : (setOutput d b s).trace = s.trace ++ [.set d b] := by
  cases d <;> rfl
@[simp] theorem setOutput_up_up (b : Bool) : (setOutput .up b s).up = b := rfl
@[simp] theorem setOutput_up_down (b : Bool) : (setOutput .up b s).down = s.down := rfl
@[simp] theorem setOutput_down_up (b : Bool) : (setOutput .down b s).up = s.up := rfl
@[simp] theorem setOutput_down_down (b : Bool) : (setOutput .down b s).down = b := rfl

/-! ## Errors: only the buffer and the trace change -/

@[simp] theorem raiseError_cfg (e : ErrorRecord) : (raiseError e s).cfg = s.cfg := by cases e <;> rfl
@[simp] theorem raiseError_currentHeight (e : ErrorRecord) : (raiseError e s).currentHeight = s.currentHeight := by cases e <;> rfl
@[simp] theorem raiseError_maxHeight (e : ErrorRecord) : (raiseError e s).maxHeight = s.maxHeight := by cases e <;> rfl
@[simp] theorem raiseError_minHeight (e : ErrorRecord) : (raiseError e s).minHeight = s.minHeight := by cases e <;> rfl
@[simp] theorem raiseError_targetHeight (e : ErrorRecord) : (raiseError e s).targetHeight = s.targetHeight := by cases e <;> rfl
@[simp] theorem raiseError_motion (e : ErrorRecord) : (raiseError e s).motion = s.motion := by cases e <;> rfl
@[simp] theorem raiseError_up (e : ErrorRecord) : (raiseError e s).up = s.up := by cases e <;> rfl
@[simp] theorem raiseError_down (e : ErrorRecord) : (raiseError e s).down = s.down := by cases e <;> rfl
@[simp] theorem raiseError_stateTicks (e : ErrorRecord) : (raiseError e s).stateTicks = s.stateTicks := by cases e <;> rfl
@[simp] theorem raiseError_pending (e : ErrorRecord) : (raiseError e s).pending = s.pending := by cases e <;> rfl
@[simp] theorem raiseError_result (e : ErrorRecord) : (raiseError e s).result = s.result := by cases e <;> rfl
@[simp] theorem raiseError_trace (e : ErrorRecord) : (raiseError e s).trace = s.trace ++ [.log e] := by cases e <;> rfl
@[simp] theorem raiseError_frameError_buf (why : SpanFault) : (raiseError (.frameError why) s).buf = s.buf.drop 1 := rfl
@[simp] theorem raiseError_rangeError_buf (h : Height) : (raiseError (.rangeError h) s).buf = s.buf := rfl
@[simp] theorem raiseError_underflowError_buf (cid : Byte) (n : Nat) :
    (raiseError (.underflowError cid n) s).buf = s.buf := rfl
@[simp] theorem raiseError_noPosition_buf (h : Height) : (raiseError (.noPosition h) s).buf = s.buf := rfl
@[simp] theorem raiseError_bufferOverflow_buf (d : Nat) : (raiseError (.bufferOverflow d) s).buf = s.buf.drop d := rfl

/-! ## Outcomes -/

@[simp] theorem andThen_next (k : State → Host.Outcome State Fault Refusal) : andThen (.next s) k = k s := rfl

/-- A step in two parts answers a next state only through a next state of its first part. -/
theorem andThen_eq_next {o : Host.Outcome State Fault Refusal} {k : State → Host.Outcome State Fault Refusal} {t : State}
    (h : andThen o k = .next t) : ∃ u, o = .next u ∧ k u = .next t := by
  cases o with
  | next u => exact ⟨u, rfl, h⟩
  | fault r => cases h
  | refused r => cases h

end Sys2Proof.Machine
end

