-- ==== Sys2Proof/Laws/Motion.lean ====
section
/-! SUPPORT. MotionController: which fields each sequence leaves alone, and once for each operation the cases of what it
can do. -/

namespace Sys2Proof.Machine

variable (s : State)

@[simp] theorem opp_opp (d : Direction) : d.opp.opp = d := by cases d <;> rfl
theorem opp_ne (d : Direction) : d.opp ≠ d := by cases d <;> decide

/-! ## The comparator -/

/-- The band test as a proposition (R180). -/
theorem inBand_iff (cfg : Cfg) (c t : Height) :
    inBand cfg c t = true ↔ 10 * (max c.toNat t.toNat - min c.toNat t.toNat) ≤ 8 * cfg.unitScale :=
  decide_eq_true_iff

/-- The band test's negation as a proposition. -/
theorem inBand_eq_false_iff (cfg : Cfg) (c t : Height) :
    inBand cfg c t = false ↔ 8 * cfg.unitScale < 10 * (max c.toNat t.toNat - min c.toNat t.toNat) := by
  rw [Bool.eq_false_iff, ne_eq, inBand_iff, Nat.not_le]

/-- A height is in the band of itself, at every scale: direction is never asked of equal heights (R181). -/
@[simp] theorem inBand_self (cfg : Cfg) (c : Height) : inBand cfg c c = true := by simp [inBand_iff]

/-- The range check reads the configuration and the limits only (R182). -/
theorem inRange_congr {s t : State} (hc : t.cfg = s.cfg) (hx : t.maxHeight = s.maxHeight) (hn : t.minHeight = s.minHeight)
    (h : Height) : inRange t h = inRange s h := by
  unfold inRange
  rw [hc, hx, hn]

/-! ## What the sequences never touch -/

@[simp] theorem drive_cfg (d : Direction) : (drive d s).cfg = s.cfg := by unfold drive; split <;> simp
@[simp] theorem drive_buf (d : Direction) : (drive d s).buf = s.buf := by unfold drive; split <;> simp
@[simp] theorem drive_currentHeight (d : Direction) : (drive d s).currentHeight = s.currentHeight := by unfold drive; split <;> simp
@[simp] theorem drive_maxHeight (d : Direction) : (drive d s).maxHeight = s.maxHeight := by unfold drive; split <;> simp
@[simp] theorem drive_minHeight (d : Direction) : (drive d s).minHeight = s.minHeight := by unfold drive; split <;> simp
@[simp] theorem drive_targetHeight (d : Direction) : (drive d s).targetHeight = s.targetHeight := by unfold drive; split <;> simp
@[simp] theorem drive_motion (d : Direction) : (drive d s).motion = s.motion := by unfold drive; split <;> simp
@[simp] theorem drive_stateTicks (d : Direction) : (drive d s).stateTicks = s.stateTicks := by unfold drive; split <;> simp
@[simp] theorem drive_pending (d : Direction) : (drive d s).pending = s.pending := by unfold drive; split <;> simp
@[simp] theorem drive_result (d : Direction) : (drive d s).result = s.result := by unfold drive; split <;> simp

@[simp] theorem stopSeq_cfg : (stopSeq s).cfg = s.cfg := by unfold stopSeq; dsimp only; split <;> simp
@[simp] theorem stopSeq_buf : (stopSeq s).buf = s.buf := by unfold stopSeq; dsimp only; split <;> simp
@[simp] theorem stopSeq_currentHeight : (stopSeq s).currentHeight = s.currentHeight := by unfold stopSeq; dsimp only; split <;> simp
@[simp] theorem stopSeq_maxHeight : (stopSeq s).maxHeight = s.maxHeight := by unfold stopSeq; dsimp only; split <;> simp
@[simp] theorem stopSeq_minHeight : (stopSeq s).minHeight = s.minHeight := by unfold stopSeq; dsimp only; split <;> simp
@[simp] theorem stopSeq_targetHeight : (stopSeq s).targetHeight = s.targetHeight := by unfold stopSeq; dsimp only; split <;> simp
@[simp] theorem stopSeq_pending : (stopSeq s).pending = s.pending := by unfold stopSeq; dsimp only; split <;> simp
@[simp] theorem stopSeq_result : (stopSeq s).result = s.result := by unfold stopSeq; dsimp only; split <;> simp
@[simp] theorem stopSeq_motion : (stopSeq s).motion = .idle := rfl
@[simp] theorem stopSeq_stateTicks : (stopSeq s).stateTicks = 0 := rfl

@[simp] theorem reverse_cfg (d : Direction) : (reverse d s).cfg = s.cfg := by unfold reverse; dsimp only; split <;> simp
@[simp] theorem reverse_buf (d : Direction) : (reverse d s).buf = s.buf := by unfold reverse; dsimp only; split <;> simp
@[simp] theorem reverse_currentHeight (d : Direction) : (reverse d s).currentHeight = s.currentHeight := by unfold reverse; dsimp only; split <;> simp
@[simp] theorem reverse_maxHeight (d : Direction) : (reverse d s).maxHeight = s.maxHeight := by unfold reverse; dsimp only; split <;> simp
@[simp] theorem reverse_minHeight (d : Direction) : (reverse d s).minHeight = s.minHeight := by unfold reverse; dsimp only; split <;> simp
@[simp] theorem reverse_targetHeight (d : Direction) : (reverse d s).targetHeight = s.targetHeight := by unfold reverse; dsimp only; split <;> simp
@[simp] theorem reverse_pending (d : Direction) : (reverse d s).pending = s.pending := by unfold reverse; dsimp only; split <;> simp
@[simp] theorem reverse_result (d : Direction) : (reverse d s).result = s.result := by unfold reverse; dsimp only; split <;> simp
@[simp] theorem reverse_motion (d : Direction) : (reverse d s).motion = .seeking d := by simp [reverse]
@[simp] theorem reverse_stateTicks (d : Direction) : (reverse d s).stateTicks = 0 := by simp [reverse]

/-! ## Evaluation (R193) -/

/-- Everything `evaluate` can do: nothing, the stop sequence of a seek, or the Move command again. -/
theorem evaluate_cases :
    evaluate s = s ∨
    (∃ d, s.motion = .seeking d ∧ evaluate s = stopSeq s) ∨
    (∃ d, s.motion = .seeking d ∧ s.cfg.strategy = .command ∧ evaluate s = drive d s) := by
  unfold evaluate
  split
  · rename_i d c t hm hc ht
    split
    · exact .inr (.inl ⟨d, hm, rfl⟩)
    · split
      · rename_i h
        exact .inr (.inr ⟨d, hm, h.1, rfl⟩)
      · exact .inl rfl
  · exact .inl rfl

/-- Without a seek `evaluate` does nothing. -/
theorem evaluate_not_seeking (h : ∀ d, s.motion ≠ .seeking d) : evaluate s = s := by
  unfold evaluate
  split
  · rename_i d c t hm hc ht
    exact absurd hm (h d)
  · rfl

@[simp] theorem evaluate_cfg : (evaluate s).cfg = s.cfg := by
  rcases evaluate_cases s with h | ⟨d, _, h⟩ | ⟨d, _, _, h⟩ <;> simp [h]
@[simp] theorem evaluate_buf : (evaluate s).buf = s.buf := by
  rcases evaluate_cases s with h | ⟨d, _, h⟩ | ⟨d, _, _, h⟩ <;> simp [h]
@[simp] theorem evaluate_currentHeight : (evaluate s).currentHeight = s.currentHeight := by
  rcases evaluate_cases s with h | ⟨d, _, h⟩ | ⟨d, _, _, h⟩ <;> simp [h]
@[simp] theorem evaluate_maxHeight : (evaluate s).maxHeight = s.maxHeight := by
  rcases evaluate_cases s with h | ⟨d, _, h⟩ | ⟨d, _, _, h⟩ <;> simp [h]
@[simp] theorem evaluate_minHeight : (evaluate s).minHeight = s.minHeight := by
  rcases evaluate_cases s with h | ⟨d, _, h⟩ | ⟨d, _, _, h⟩ <;> simp [h]
@[simp] theorem evaluate_targetHeight : (evaluate s).targetHeight = s.targetHeight := by
  rcases evaluate_cases s with h | ⟨d, _, h⟩ | ⟨d, _, _, h⟩ <;> simp [h]
@[simp] theorem evaluate_pending : (evaluate s).pending = s.pending := by
  rcases evaluate_cases s with h | ⟨d, _, h⟩ | ⟨d, _, _, h⟩ <;> simp [h]
@[simp] theorem evaluate_result : (evaluate s).result = s.result := by
  rcases evaluate_cases s with h | ⟨d, _, h⟩ | ⟨d, _, _, h⟩ <;> simp [h]

/-! ## POSITION_UPDATE (R192) and TICK (R195) -/

@[simp] theorem positionUpdate_cfg (h : Height) : (positionUpdate h s).cfg = s.cfg := by
  unfold positionUpdate; split <;> simp
@[simp] theorem positionUpdate_buf (h : Height) : (positionUpdate h s).buf = s.buf := by
  unfold positionUpdate; split <;> simp
@[simp] theorem positionUpdate_maxHeight (h : Height) : (positionUpdate h s).maxHeight = s.maxHeight := by
  unfold positionUpdate; split <;> simp
@[simp] theorem positionUpdate_minHeight (h : Height) : (positionUpdate h s).minHeight = s.minHeight := by
  unfold positionUpdate; split <;> simp
@[simp] theorem positionUpdate_targetHeight (h : Height) : (positionUpdate h s).targetHeight = s.targetHeight := by
  unfold positionUpdate; split <;> simp
@[simp] theorem positionUpdate_pending (h : Height) : (positionUpdate h s).pending = s.pending := by
  unfold positionUpdate; split <;> simp
@[simp] theorem positionUpdate_result (h : Height) : (positionUpdate h s).result = s.result := by
  unfold positionUpdate; split <;> simp
/-- After a position update the height is known and is the one given. -/
@[simp] theorem positionUpdate_currentHeight (h : Height) : (positionUpdate h s).currentHeight = some h := by
  unfold positionUpdate; split <;> simp [*]

@[simp] theorem countTick_cfg : (countTick s).cfg = s.cfg := by unfold countTick; split <;> simp
@[simp] theorem countTick_buf : (countTick s).buf = s.buf := by unfold countTick; split <;> simp
@[simp] theorem countTick_currentHeight : (countTick s).currentHeight = s.currentHeight := by unfold countTick; split <;> simp
@[simp] theorem countTick_maxHeight : (countTick s).maxHeight = s.maxHeight := by unfold countTick; split <;> simp
@[simp] theorem countTick_minHeight : (countTick s).minHeight = s.minHeight := by unfold countTick; split <;> simp
@[simp] theorem countTick_targetHeight : (countTick s).targetHeight = s.targetHeight := by unfold countTick; split <;> simp
@[simp] theorem countTick_motion : (countTick s).motion = s.motion := by unfold countTick; split <;> simp
@[simp] theorem countTick_up : (countTick s).up = s.up := by unfold countTick; split <;> simp
@[simp] theorem countTick_down : (countTick s).down = s.down := by unfold countTick; split <;> simp
@[simp] theorem countTick_pending : (countTick s).pending = s.pending := by unfold countTick; split <;> simp
@[simp] theorem countTick_trace : (countTick s).trace = s.trace := by unfold countTick; split <;> simp
@[simp] theorem countTick_result : (countTick s).result = s.result := by unfold countTick; split <;> simp

/-- The counter never decreases by counting and stays in its width (R195, R276). -/
theorem countTick_bounds (h : s.stateTicks < 2 ^ s.cfg.tickW) :
    s.stateTicks ≤ (countTick s).stateTicks ∧ (countTick s).stateTicks < 2 ^ s.cfg.tickW := by
  unfold countTick
  split
  · simp only [State.setTicks_stateTicks]; omega
  · exact ⟨le_rfl, h⟩

@[simp] theorem tick_cfg : (tick s).cfg = s.cfg := by
  unfold tick; split <;> simp
@[simp] theorem tick_buf : (tick s).buf = s.buf := by
  unfold tick; split <;> simp
@[simp] theorem tick_currentHeight : (tick s).currentHeight = s.currentHeight := by
  unfold tick; split <;> simp
@[simp] theorem tick_maxHeight : (tick s).maxHeight = s.maxHeight := by
  unfold tick; split <;> simp
@[simp] theorem tick_minHeight : (tick s).minHeight = s.minHeight := by
  unfold tick; split <;> simp
@[simp] theorem tick_targetHeight : (tick s).targetHeight = s.targetHeight := by
  unfold tick; split <;> simp
@[simp] theorem tick_pending : (tick s).pending = s.pending := by
  unfold tick; split <;> simp
@[simp] theorem tick_result : (tick s).result = s.result := by
  unfold tick; split <;> simp

/-! ## SET_TARGET (R186) -/

/-- Everything the accepted part of SET_TARGET can do. -/
theorem seekTo_cases (c h : Height) :
    (seekTo c h s = .next s) ∨
    (s.motion = .idle ∧ seekTo c h s = .next (drive (dir c h) (enter (.seeking (dir c h)) s))) ∨
    (∃ d, s.motion = .seeking d ∧ seekTo c h s = .next (stopSeq s)) ∨
    (∃ d, s.motion = .seeking d ∧ dir c h ≠ d ∧ seekTo c h s = .next (reverse (dir c h) s)) ∨
    (s.motion = .stopping ∧ seekTo c h s = .fault .stoppingAtBoundary) := by
  unfold seekTo
  split
  · rename_i hm
    split
    · exact .inl rfl
    · exact .inr (.inl ⟨hm, rfl⟩)
  · rename_i d hm
    split
    · exact .inr (.inr (.inl ⟨d, hm, rfl⟩))
    · split
      · exact .inl rfl
      · rename_i hd
        exact .inr (.inr (.inr (.inl ⟨d, hm, hd, rfl⟩)))
  · rename_i hm
    exact .inr (.inr (.inr (.inr ⟨hm, rfl⟩)))

/-- Everything SET_TARGET can do: one of the two rejections, or the seek of an accepted target. -/
theorem setTarget_cases (h : Height) :
    (inRange s h = false ∧ setTarget h s = .next ((raiseError (.rangeError h) s).returns (.accepted false))) ∨
    (inRange s h = true ∧ s.currentHeight = none ∧
      setTarget h s = .next ((raiseError (.noPosition h) s).returns (.accepted false))) ∨
    (∃ c, inRange s h = true ∧ s.currentHeight = some c ∧
      setTarget h s =
        andThen (seekTo c h (s.setTargetHeight (some h))) fun t => .next (t.returns (.accepted true))) := by
  unfold setTarget
  by_cases hr : inRange s h = false
  · exact .inl ⟨hr, by simp [hr]⟩
  · have hr' : inRange s h = true := by simpa using hr
    cases hc : s.currentHeight with
    | none => exact .inr (.inl ⟨hr', rfl, by simp [hr']⟩)
    | some c => exact .inr (.inr ⟨c, hr', rfl, by simp [hr']⟩)

end Sys2Proof.Machine
end

