-- ==== Sys2Proof/Laws/Memory.lean ====
section
/-! SUPPORT. The memory: every operation keeps its form, reading after writing, and the view as addressed cells. -/

namespace Sys2Proof.Machine

namespace Memory

/-- The form in words: no longer than the capacity. -/
theorem wf_iff {cap : Option Nat} {m : Memory} : Memory.wf cap m = true ↔ ∀ c, cap = some c → m.length ≤ c := by
  cases cap <;> simp [wf]

/-- A memory no longer than a well-formed one is well-formed. -/
theorem wf_of_length_le {cap : Option Nat} {m m' : Memory} (h : Memory.wf cap m = true) (hle : m'.length ≤ m.length) :
    Memory.wf cap m' = true := by
  rw [wf_iff] at *
  intro c hc
  exact hle.trans (h c hc)

/-- Consuming keeps the form. -/
theorem wf_consume {cap : Option Nat} {m : Memory} (k : Nat) (h : Memory.wf cap m = true) :
    Memory.wf cap (m.consume k) = true :=
  wf_of_length_le h (by simp [consume])

/-- Dropping the excess establishes the form, whatever was appended. -/
theorem wf_drop_excess (cap : Option Nat) (m : Memory) : Memory.wf cap (m.drop (m.excess cap)) = true := by
  rw [wf_iff]
  rintro c rfl
  simp only [excess, List.length_drop]
  omega

/-- Nothing exceeds the capacity exactly when the form holds. -/
theorem excess_eq_zero {cap : Option Nat} {m : Memory} : m.excess cap = 0 ↔ Memory.wf cap m = true := by
  cases cap <;> simp [excess, wf, Nat.sub_eq_zero_iff_le]

/-- An old byte reads as before after an append. -/
theorem read_append_old {m : Memory} {a : Nat} (bs : List Byte) (h : a < m.length) :
    (m.append bs).read a = m.read a := by
  simp [append, read, List.getElem?_append_left h]

/-- An appended byte reads back. -/
theorem read_append_new (m : Memory) (bs : List Byte) (i : Nat) : (m.append bs).read (List.length m + i) = bs[i]? := by
  simp [append, read, List.getElem?_append_right]

/-- Consuming renumbers the rest down (R60). -/
theorem read_consume (m : Memory) (k a : Nat) : (m.consume k).read a = m.read (k + a) := by
  simp [consume, read]

/-- The addresses of the cells rise strictly. -/
theorem cellsFrom_addresses (base : Nat) (m : Memory) :
    (cellsFrom base m).map Prod.fst = List.range' base m.length := by
  induction m generalizing base with
  | nil => rfl
  | cons b bs ih => simp [cellsFrom, ih, List.range'_succ]

/-- The cells hold the bytes in order, so equal cells are equal memories. -/
theorem cellsFrom_bytes (base : Nat) (m : Memory) : (cellsFrom base m).map Prod.snd = m := by
  induction m generalizing base with
  | nil => rfl
  | cons b bs ih => simp [cellsFrom, ih]

end Memory

/-- The memory after reset has the form. -/
theorem reset_memory_wf : Memory.wf State.reset.cfg.bufCap State.reset.buf = true := rfl

end Sys2Proof.Machine
end

