-- ==== Sys2Proof/Laws/FrameCodec.lean ====
section
/-! SUPPORT. FEED and NEXT_FRAME: the loop's equation without its fuel, and what framing can touch. -/

namespace Sys2Proof.Machine

/-! ## FEED -/

/-- FEED's two cases (R120). -/
theorem feed_cases (bs : List Byte) (s : State) :
    (Memory.wf s.cfg.bufCap (s.buf ++ bs) = true ∧ feed bs s = s.setBuf (s.buf ++ bs)) ∨
    (Memory.wf s.cfg.bufCap (s.buf ++ bs) = false ∧
      feed bs s = raiseError (.bufferOverflow (Memory.excess s.cfg.bufCap (s.buf ++ bs))) (s.setBuf (s.buf ++ bs))) := by
  by_cases h : Memory.wf s.cfg.bufCap (s.buf ++ bs) = true
  · refine .inl ⟨h, ?_⟩
    simp [feed, Memory.append, Memory.excess_eq_zero.2 h]
  · refine .inr ⟨by simpa using h, ?_⟩
    simp [feed, Memory.append, Memory.excess_eq_zero.not.2 h]

theorem feed_buf_wf (bs : List Byte) (s : State) : Memory.wf s.cfg.bufCap (feed bs s).buf = true := by
  rcases feed_cases bs s with ⟨h, e⟩ | ⟨h, e⟩ <;> rw [e]
  · simpa using h
  · simpa using Memory.wf_drop_excess s.cfg.bufCap (s.buf ++ bs)

@[simp] theorem feed_cfg (bs : List Byte) (s : State) : (feed bs s).cfg = s.cfg := by
  rcases feed_cases bs s with ⟨_, e⟩ | ⟨_, e⟩ <;> simp [e]
@[simp] theorem feed_currentHeight (bs : List Byte) (s : State) : (feed bs s).currentHeight = s.currentHeight := by
  rcases feed_cases bs s with ⟨_, e⟩ | ⟨_, e⟩ <;> simp [e]
@[simp] theorem feed_maxHeight (bs : List Byte) (s : State) : (feed bs s).maxHeight = s.maxHeight := by
  rcases feed_cases bs s with ⟨_, e⟩ | ⟨_, e⟩ <;> simp [e]
@[simp] theorem feed_minHeight (bs : List Byte) (s : State) : (feed bs s).minHeight = s.minHeight := by
  rcases feed_cases bs s with ⟨_, e⟩ | ⟨_, e⟩ <;> simp [e]
@[simp] theorem feed_targetHeight (bs : List Byte) (s : State) : (feed bs s).targetHeight = s.targetHeight := by
  rcases feed_cases bs s with ⟨_, e⟩ | ⟨_, e⟩ <;> simp [e]
@[simp] theorem feed_motion (bs : List Byte) (s : State) : (feed bs s).motion = s.motion := by
  rcases feed_cases bs s with ⟨_, e⟩ | ⟨_, e⟩ <;> simp [e]
@[simp] theorem feed_up (bs : List Byte) (s : State) : (feed bs s).up = s.up := by
  rcases feed_cases bs s with ⟨_, e⟩ | ⟨_, e⟩ <;> simp [e]
@[simp] theorem feed_down (bs : List Byte) (s : State) : (feed bs s).down = s.down := by
  rcases feed_cases bs s with ⟨_, e⟩ | ⟨_, e⟩ <;> simp [e]
@[simp] theorem feed_stateTicks (bs : List Byte) (s : State) : (feed bs s).stateTicks = s.stateTicks := by
  rcases feed_cases bs s with ⟨_, e⟩ | ⟨_, e⟩ <;> simp [e]
@[simp] theorem feed_pending (bs : List Byte) (s : State) : (feed bs s).pending = s.pending := by
  rcases feed_cases bs s with ⟨_, e⟩ | ⟨_, e⟩ <;> simp [e]
@[simp] theorem feed_result (bs : List Byte) (s : State) : (feed bs s).result = s.result := by
  rcases feed_cases bs s with ⟨_, e⟩ | ⟨_, e⟩ <;> simp [e]

/-! ## The searches -/

@[simp] theorem findMarker_nil : findMarker [] = none := rfl
@[simp] theorem findMarker_single (a : Byte) : findMarker [a] = none := rfl
theorem findMarker_cons_cons (a b : Byte) (rest : List Byte) :
    findMarker (a :: b :: rest) =
      if a = 0xF2#8 ∧ b = 0xF2#8 then some 0 else (findMarker (b :: rest)).map (· + 1) := rfl

/-- A marker found lies wholly in the buffer. -/
theorem findMarker_lt : ∀ {b : List Byte} {i : Nat}, findMarker b = some i → i + 1 < b.length
  | [], _, h => by simp at h
  | [_], _, h => by simp at h
  | a :: b :: rest, i, h => by
    rw [findMarker_cons_cons] at h
    split at h
    · cases h; simp
    · obtain ⟨j, hj, rfl⟩ := Option.map_eq_some_iff.1 h
      have := findMarker_lt hj
      simp only [List.length_cons] at *
      omega

/-- What is left from a marker found on begins with the marker. -/
theorem findMarker_drop : ∀ {b : List Byte} {i : Nat}, findMarker b = some i →
    ∃ rest, b.drop i = 0xF2#8 :: 0xF2#8 :: rest
  | [], _, h => by simp at h
  | [_], _, h => by simp at h
  | a :: b :: rest, i, h => by
    rw [findMarker_cons_cons] at h
    split at h
    · rename_i hab
      cases h
      exact ⟨rest, by simp [hab.1, hab.2]⟩
    · obtain ⟨j, hj, rfl⟩ := Option.map_eq_some_iff.1 h
      simpa using findMarker_drop hj

theorem findEndByte_lt : ∀ {b : List Byte} {j : Nat}, findEndByte b = some j → j < b.length
  | [], _, h => by simp [findEndByte] at h
  | a :: rest, j, h => by
    unfold findEndByte at h
    split at h
    · cases h; simp
    · obtain ⟨k, hk, rfl⟩ := Option.map_eq_some_iff.1 h
      simpa using findEndByte_lt hk

/-- A terminator found lies past the marker and in the buffer. -/
theorem findEnd_bounds {b : List Byte} {e : Nat} (h : findEnd b = some e) : 2 ≤ e ∧ e < b.length := by
  obtain ⟨j, hj, rfl⟩ := Option.map_eq_some_iff.1 h
  have := findEndByte_lt hj
  simp only [List.length_drop] at this
  omega

theorem keepTail_length_le (b : List Byte) : (keepTail b).length ≤ b.length := by
  unfold keepTail
  split
  · rename_i h
    cases b with
    | nil => simp at h
    | cons a rest => simp
  · simp

/-! ## NEXT_FRAME -/

/-- With enough fuel the loop's answer does not depend on the fuel (R129). -/
theorem nextFrameLoop_fuel : ∀ (n m : Nat) (s : State), s.buf.length < n → s.buf.length < m →
    nextFrameLoop n s = nextFrameLoop m s
  | 0, _, _, h, _ => by omega
  | _ + 1, 0, _, _, h => by omega
  | n + 1, m + 1, s, hn, hm => by
    unfold nextFrameLoop
    split
    · rfl
    · rename_i i hi
      dsimp only
      split
      · rfl
      · rename_i e he
        split
        · rfl
        · have hb := findEnd_bounds he
          simp only [State.consume_buf, List.length_drop] at hb
          apply nextFrameLoop_fuel <;> simp <;> omega

/-- The loop of R121, without fuel: the equation every later proof cites. -/
theorem nextFrame_eq (s : State) :
    nextFrame s =
      match findMarker s.buf with
      | none => (none, s.setBuf (keepTail s.buf))
      | some i =>
        match findEnd (s.buf.drop i) with
        | none => (none, s.consume i)
        | some e =>
          match validSpan ((s.buf.drop i).take (e + 1)) .incoming with
          | .ok => (some (readFrame .incoming ((s.buf.drop i).take (e + 1))), (s.consume i).consume (e + 1))
          | .bad why => nextFrame (raiseError (.frameError why) (s.consume i)) := by
  rw [nextFrame, nextFrameLoop]
  cases hi : findMarker s.buf with
  | none => rfl
  | some i =>
    simp only [State.consume_buf]
    cases he : findEnd (s.buf.drop i) with
    | none => rfl
    | some e =>
      simp only
      cases hv : validSpan ((s.buf.drop i).take (e + 1)) .incoming with
      | ok => rfl
      | bad why =>
        have hb := findEnd_bounds he
        simp only [List.length_drop] at hb
        apply nextFrameLoop_fuel
        all_goals simp only [raiseError_frameError_buf, State.consume_buf, List.length_drop]
        all_goals omega

/-- NEXT_FRAME by rounds: to prove something of its answer, prove it of each way to answer and carry it back over one
failed candidate. -/
theorem nextFrame_induction {P : State → Option Frame × State → Prop}
    (noMarker : ∀ s, findMarker s.buf = none → P s (none, s.setBuf (keepTail s.buf)))
    (noEnd : ∀ s i, findMarker s.buf = some i → findEnd (s.buf.drop i) = none → P s (none, s.consume i))
    (found : ∀ s i e, findMarker s.buf = some i → findEnd (s.buf.drop i) = some e →
      validSpan ((s.buf.drop i).take (e + 1)) .incoming = .ok →
      P s (some (readFrame .incoming ((s.buf.drop i).take (e + 1))), (s.consume i).consume (e + 1)))
    (failed : ∀ s i e why, findMarker s.buf = some i → findEnd (s.buf.drop i) = some e →
      validSpan ((s.buf.drop i).take (e + 1)) .incoming = .bad why →
      P (raiseError (.frameError why) (s.consume i)) (nextFrame (raiseError (.frameError why) (s.consume i))) →
      P s (nextFrame (raiseError (.frameError why) (s.consume i))))
    (s : State) : P s (nextFrame s) := by
  induction hn : s.buf.length using Nat.strong_induction_on generalizing s with
  | _ n ih =>
    rw [nextFrame_eq]
    split
    · exact noMarker s ‹_›
    · rename_i i hi
      split
      · exact noEnd s i hi ‹_›
      · rename_i e he
        split
        · exact found s i e hi he ‹_›
        · rename_i why hw
          refine failed s i e why hi he hw (ih _ ?_ _ rfl)
          have hb := findEnd_bounds he
          simp only [List.length_drop] at hb
          simp
          omega

@[simp] theorem nextFrame_cfg (s : State) : (nextFrame s).2.cfg = s.cfg :=
  nextFrame_induction (P := fun s r => r.2.cfg = s.cfg) (by simp) (by simp) (by simp)
    (fun s i e why _ _ _ h => by simpa using h) s

@[simp] theorem nextFrame_currentHeight (s : State) : (nextFrame s).2.currentHeight = s.currentHeight :=
  nextFrame_induction (P := fun s r => r.2.currentHeight = s.currentHeight) (by simp) (by simp) (by simp)
    (fun s i e why _ _ _ h => by simpa using h) s

@[simp] theorem nextFrame_maxHeight (s : State) : (nextFrame s).2.maxHeight = s.maxHeight :=
  nextFrame_induction (P := fun s r => r.2.maxHeight = s.maxHeight) (by simp) (by simp) (by simp)
    (fun s i e why _ _ _ h => by simpa using h) s

@[simp] theorem nextFrame_minHeight (s : State) : (nextFrame s).2.minHeight = s.minHeight :=
  nextFrame_induction (P := fun s r => r.2.minHeight = s.minHeight) (by simp) (by simp) (by simp)
    (fun s i e why _ _ _ h => by simpa using h) s

@[simp] theorem nextFrame_targetHeight (s : State) : (nextFrame s).2.targetHeight = s.targetHeight :=
  nextFrame_induction (P := fun s r => r.2.targetHeight = s.targetHeight) (by simp) (by simp) (by simp)
    (fun s i e why _ _ _ h => by simpa using h) s

@[simp] theorem nextFrame_motion (s : State) : (nextFrame s).2.motion = s.motion :=
  nextFrame_induction (P := fun s r => r.2.motion = s.motion) (by simp) (by simp) (by simp)
    (fun s i e why _ _ _ h => by simpa using h) s

@[simp] theorem nextFrame_up (s : State) : (nextFrame s).2.up = s.up :=
  nextFrame_induction (P := fun s r => r.2.up = s.up) (by simp) (by simp) (by simp)
    (fun s i e why _ _ _ h => by simpa using h) s

@[simp] theorem nextFrame_down (s : State) : (nextFrame s).2.down = s.down :=
  nextFrame_induction (P := fun s r => r.2.down = s.down) (by simp) (by simp) (by simp)
    (fun s i e why _ _ _ h => by simpa using h) s

@[simp] theorem nextFrame_stateTicks (s : State) : (nextFrame s).2.stateTicks = s.stateTicks :=
  nextFrame_induction (P := fun s r => r.2.stateTicks = s.stateTicks) (by simp) (by simp) (by simp)
    (fun s i e why _ _ _ h => by simpa using h) s

@[simp] theorem nextFrame_pending (s : State) : (nextFrame s).2.pending = s.pending :=
  nextFrame_induction (P := fun s r => r.2.pending = s.pending) (by simp) (by simp) (by simp)
    (fun s i e why _ _ _ h => by simpa using h) s

@[simp] theorem nextFrame_result (s : State) : (nextFrame s).2.result = s.result :=
  nextFrame_induction (P := fun s r => r.2.result = s.result) (by simp) (by simp) (by simp)
    (fun s i e why _ _ _ h => by simpa using h) s

/-- Framing never lengthens the buffer (R62). -/
theorem nextFrame_length_le (s : State) : (nextFrame s).2.buf.length ≤ s.buf.length :=
  nextFrame_induction (P := fun s r => r.2.buf.length ≤ s.buf.length)
    (fun s _ => by simpa using keepTail_length_le s.buf) (by simp) (by simp)
    (fun s i e why _ _ _ h => by simp at h; omega) s

/-- A frame returned has been consumed (R127): the buffer is shorter. -/
theorem nextFrame_length_lt {s : State} {f : Frame} (h : (nextFrame s).1 = some f) :
    (nextFrame s).2.buf.length < s.buf.length :=
  nextFrame_induction (P := fun s r => ∀ f, r.1 = some f → r.2.buf.length < s.buf.length)
    (by simp) (by simp)
    (fun s i e _ he _ f _ => by
      have hb := findEnd_bounds he
      simp only [List.length_drop] at hb
      simp
      omega)
    (fun s i e why _ he _ h f hf => by
      have h2 := h f hf
      simp at h2
      omega) s f h

end Sys2Proof.Machine
end

