-- ==== Sys2Proof/Laws/PerInstr.lean ====
section
/-! SUPPORT. Facts about every instruction as syntax, one lemma per constructor. -/

namespace Sys2Proof.Laws.FrameForm

/-- A well-formed instruction's frame keeps the Frame invariant (R28), and its marker is the instruction's direction. -/
def Statement (i : Instr) : Prop :=
  ∀ ids : CommandIds, i.wf = true → (frameOfInstr ids i).wf = true ∧ (frameOfInstr ids i).startMarker = i.marker

/-- A frame built from a payload that fits its length byte keeps the Frame invariant. -/
theorem frameWith_wf (m : Marker) (cid : Byte) (p : List Byte) (h : p.length ≤ 255) : (frameWith m cid p).wf = true := by
  simp [frameWith, Frame.wf, Nat.mod_eq_of_lt (Nat.lt_succ_of_le h)]

theorem moveUp : Statement .moveUp := fun _ _ => ⟨frameWith_wf _ _ _ (by decide), rfl⟩
theorem moveDown : Statement .moveDown := fun _ _ => ⟨frameWith_wf _ _ _ (by decide), rfl⟩
theorem stop : Statement .stop := fun _ _ => ⟨frameWith_wf _ _ _ (by decide), rfl⟩
theorem goToHeight (h : Height) : Statement (.goToHeight h) := fun _ _ => ⟨frameWith_wf _ _ _ (by simp), rfl⟩
theorem queryMemoryAndHeight : Statement .queryMemoryAndHeight := fun _ _ => ⟨frameWith_wf _ _ _ (by decide), rfl⟩
theorem queryLimits : Statement .queryLimits := fun _ _ => ⟨frameWith_wf _ _ _ (by decide), rfl⟩
theorem heightReading (h : Height) (extra : Byte) : Statement (.heightReading h extra) :=
  fun _ _ => ⟨frameWith_wf _ _ _ (by simp), rfl⟩
theorem memorySlotReading37 (p : List Byte) : Statement (.memorySlotReading37 p) :=
  fun _ h => ⟨frameWith_wf _ _ _ (by simpa [Instr.wf] using h), rfl⟩
theorem memorySlotReading38 (p : List Byte) : Statement (.memorySlotReading38 p) :=
  fun _ h => ⟨frameWith_wf _ _ _ (by simpa [Instr.wf] using h), rfl⟩
theorem memorySlotReading39 (p : List Byte) : Statement (.memorySlotReading39 p) :=
  fun _ h => ⟨frameWith_wf _ _ _ (by simpa [Instr.wf] using h), rfl⟩
theorem memorySlotReading40 (p : List Byte) : Statement (.memorySlotReading40 p) :=
  fun _ h => ⟨frameWith_wf _ _ _ (by simpa [Instr.wf] using h), rfl⟩
theorem limitReading (mx mn : Height) : Statement (.limitReading mx mn) :=
  fun _ _ => ⟨frameWith_wf _ _ _ (by simp), rfl⟩

end Sys2Proof.Laws.FrameForm
end

