-- ==== Sys2Proof/Laws/Session.lean ====
section
/-! SUPPORT. DeskSession and the instructions: what a received event never touches, and the drain loop's equation
without its fuel. -/

namespace Sys2Proof.Machine

variable (s : State)

/-! ## Events -/

/-- Everything a received HeightReading does (R161, R232): the result, and for a changed height the publish and the
position update. -/
theorem receiveEvent_heightReading (h : Height) :
    receiveEvent (.heightReading h) s =
      if s.currentHeight = some h then s.returns (.event (some (.heightReading h)))
      else positionUpdate h (publish h (s.returns (.event (some (.heightReading h))))) := rfl

@[simp] theorem receiveEvent_cfg (e : TelemetryEvent) : (receiveEvent e s).cfg = s.cfg := by
  cases e with
  | heightReading h => rw [receiveEvent_heightReading]; split <;> simp
  | memorySlotReading i h => rfl
  | limitReading mx mn => rfl
@[simp] theorem receiveSlot_cfg (i : Byte) (p : List Byte) : (receiveSlot i p s).cfg = s.cfg := by
  unfold receiveSlot; split <;> simp [reportDecoding]
@[simp] theorem receiveEvent_buf (e : TelemetryEvent) : (receiveEvent e s).buf = s.buf := by
  cases e with
  | heightReading h => rw [receiveEvent_heightReading]; split <;> simp
  | memorySlotReading i h => rfl
  | limitReading mx mn => rfl
@[simp] theorem receiveSlot_buf (i : Byte) (p : List Byte) : (receiveSlot i p s).buf = s.buf := by
  unfold receiveSlot; split <;> simp [reportDecoding]
@[simp] theorem receiveEvent_targetHeight (e : TelemetryEvent) : (receiveEvent e s).targetHeight = s.targetHeight := by
  cases e with
  | heightReading h => rw [receiveEvent_heightReading]; split <;> simp
  | memorySlotReading i h => rfl
  | limitReading mx mn => rfl
@[simp] theorem receiveSlot_targetHeight (i : Byte) (p : List Byte) : (receiveSlot i p s).targetHeight = s.targetHeight := by
  unfold receiveSlot; split <;> simp [reportDecoding]
@[simp] theorem receiveEvent_pending (e : TelemetryEvent) : (receiveEvent e s).pending = s.pending := by
  cases e with
  | heightReading h => rw [receiveEvent_heightReading]; split <;> simp
  | memorySlotReading i h => rfl
  | limitReading mx mn => rfl
@[simp] theorem receiveSlot_pending (i : Byte) (p : List Byte) : (receiveSlot i p s).pending = s.pending := by
  unfold receiveSlot; split <;> simp [reportDecoding]

/-- Running an instruction leaves the buffer, the configuration, the target and the pending operations alone. -/
theorem exec_leaves {i : Instr} {t : State} (h : exec i s = .next t) :
    t.buf = s.buf ∧ t.cfg = s.cfg ∧ t.targetHeight = s.targetHeight ∧ t.pending = s.pending := by
  cases i <;> cases h <;> simp [returnFrame]

/-! ## The drain loop (R230) -/

/-- With enough fuel the loop's answer does not depend on the fuel. -/
theorem drainLoop_fuel : ∀ (n m : Nat) (s : State), s.buf.length < n → s.buf.length < m →
    drainLoop n s = drainLoop m s
  | 0, _, _, h, _ => by omega
  | _ + 1, 0, _, _, h => by omega
  | n + 1, m + 1, s, hn, hm => by
    unfold drainLoop
    obtain ⟨r, s1, hr⟩ : ∃ r s1, nextFrame s = (r, s1) := ⟨_, _, rfl⟩
    cases r with
    | none => simp only [hr]
    | some f =>
      simp only [hr]
      have hl : s1.buf.length < s.buf.length := by
        have := nextFrame_length_lt (s := s) (f := f) (by rw [hr])
        rwa [hr] at this
      cases instrOfIncoming f with
      | none => exact drainLoop_fuel n m s1 (by omega) (by omega)
      | some i =>
        simp only
        cases hx : exec i s1 with
        | next t =>
          have := (exec_leaves s1 hx).1
          exact drainLoop_fuel n m t (by rw [this]; omega) (by rw [this]; omega)
        | fault r => rfl
        | refused r => rfl

/-- The loop of R230, without fuel: the equation every later proof cites. -/
theorem drain_eq :
    drain s =
      match (nextFrame s).1 with
      | none => .next (nextFrame s).2
      | some f =>
        match instrOfIncoming f with
        | none => drain (nextFrame s).2
        | some i => andThen (exec i (nextFrame s).2) drain := by
  rw [drain, drainLoop]
  obtain ⟨r, s1, hr⟩ : ∃ r s1, nextFrame s = (r, s1) := ⟨_, _, rfl⟩
  cases r with
  | none => simp only [hr]
  | some f =>
    simp only [hr]
    have hl : s1.buf.length < s.buf.length := by
      have := nextFrame_length_lt (s := s) (f := f) (by rw [hr])
      rwa [hr] at this
    cases instrOfIncoming f with
    | none => exact drainLoop_fuel _ _ s1 hl (by omega)
    | some i =>
      simp only
      cases hx : exec i s1 with
      | next t =>
        have := (exec_leaves s1 hx).1
        exact drainLoop_fuel _ _ t (by rw [this]; exact hl) (by omega)
      | fault r => rfl
      | refused r => rfl

/-- Induction over the frames a drain takes: `P` holds of a drain that finds no frame, and is carried back over one
frame, ignored or run. -/
theorem drain_induction {P : State → Host.Outcome State Fault Refusal → Prop}
    (done : ∀ s, (nextFrame s).1 = none → P s (.next (nextFrame s).2))
    (ignored : ∀ s f, (nextFrame s).1 = some f → instrOfIncoming f = none →
      P (nextFrame s).2 (drain (nextFrame s).2) → P s (drain (nextFrame s).2))
    (ran : ∀ s f i t, (nextFrame s).1 = some f → instrOfIncoming f = some i → exec i (nextFrame s).2 = .next t →
      P t (drain t) → P s (drain t))
    (faulted : ∀ s f i r, (nextFrame s).1 = some f → instrOfIncoming f = some i →
      exec i (nextFrame s).2 = .fault r → P s (.fault r))
    (refused : ∀ s f i r, (nextFrame s).1 = some f → instrOfIncoming f = some i →
      exec i (nextFrame s).2 = .refused r → P s (.refused r))
    (s : State) : P s (drain s) := by
  induction hn : s.buf.length using Nat.strong_induction_on generalizing s with
  | _ n ih =>
    rw [drain_eq]
    cases hf : (nextFrame s).1 with
    | none => exact done s hf
    | some f =>
      have hl := nextFrame_length_lt hf
      simp only
      cases hi : instrOfIncoming f with
      | none => exact ignored s f hf hi (ih _ (by omega) _ rfl)
      | some i =>
        simp only
        cases hx : exec i (nextFrame s).2 with
        | next t =>
          have hb := (exec_leaves _ hx).1
          exact ran s f i t hf hi hx (ih _ (by rw [hb]; omega) _ rfl)
        | fault r => exact faulted s f i r hf hi hx
        | refused r => exact refused s f i r hf hi hx

/-! ## Publishing -/

@[simp] theorem publishedHeights_append (a b : List Action) :
    publishedHeights (a ++ b) = publishedHeights a ++ publishedHeights b := by
  induction a with
  | nil => rfl
  | cons x rest ih => cases x <;> simp [publishedHeights, ih]

end Sys2Proof.Machine
end

