-- ==== Sys2Proof/Laws/Safety.lean ====
section
/-! SUPPORT. The functions the claims are written in: the step's equations, frames taken without fuel, the heights read and
published, and traces joined. -/

namespace Sys2Proof.Machine

variable (s : State)

/-! ## The step -/

/-- With an operation pending a step is that operation, taken from the pending ones. -/
theorem step_cons {op : HostOp} {rest : List HostOp} (h : s.pending = op :: rest) :
    step s = runOp op (s.setPending rest) := by
  unfold step stepOp
  rw [h]

/-- With nothing pending a step holds the state (R281). -/
theorem step_nil (h : s.pending = []) : step s = .next s := by
  unfold step stepOp
  rw [h]

/-! ## Taking frames -/

/-- With enough fuel the frames taken do not depend on the fuel. -/
theorem takeFramesLoop_fuel : ∀ (n m : Nat) (s : State), s.buf.length < n → s.buf.length < m →
    takeFramesLoop n s = takeFramesLoop m s
  | 0, _, _, h, _ => by omega
  | _ + 1, 0, _, _, h => by omega
  | n + 1, m + 1, s, hn, hm => by
    unfold takeFramesLoop
    obtain ⟨r, s1, hr⟩ : ∃ r s1, nextFrame s = (r, s1) := ⟨_, _, rfl⟩
    cases r with
    | none => simp only [hr]
    | some f =>
      have hl := nextFrame_length_lt (s := s) (f := f) (by rw [hr])
      rw [hr] at hl
      simp only [hr, takeFramesLoop_fuel n m s1 (by dsimp only at hl; omega) (by dsimp only at hl; omega)]

/-- Taking frames, without fuel: the equation every later proof cites. -/
theorem takeFrames_eq :
    takeFrames s =
      match (nextFrame s).1 with
      | none => ([], (nextFrame s).2)
      | some f => (f :: (takeFrames (nextFrame s).2).1, (takeFrames (nextFrame s).2).2) := by
  rw [takeFrames, takeFramesLoop]
  obtain ⟨r, s1, hr⟩ : ∃ r s1, nextFrame s = (r, s1) := ⟨_, _, rfl⟩
  cases r with
  | none => simp only [hr]
  | some f =>
    have hl := nextFrame_length_lt (s := s) (f := f) (by rw [hr])
    rw [hr] at hl
    simp only [hr]
    rw [takeFramesLoop_fuel _ (s1.buf.length + 1) s1 hl (by omega)]
    rfl

/-! ## Heights read and published -/

@[simp] theorem heightsRead_nil : heightsRead [] = [] := rfl

/-- A Frame adds its height, or nothing. -/
@[simp] theorem heightsRead_cons (f : Frame) (fs : List Frame) :
    heightsRead (f :: fs) = (heightRead f).toList ++ heightsRead fs := by
  unfold heightsRead
  cases h : heightRead f <;> simp [h]

@[simp] theorem changesFrom_nil (known : Option Height) : changesFrom known [] = [] := by cases known <;> rfl

theorem changesFrom_cons (known : Option Height) (h : Height) (hs : List Height) :
    changesFrom known (h :: hs) = if known = some h then changesFrom known hs else h :: changesFrom (some h) hs := by
  cases known <;> rfl

/-- The changes of a longer reading: those of its first part, then those of the rest from the height last read. -/
theorem changesFrom_append (known : Option Height) (a b : List Height) :
    changesFrom known (a ++ b) = changesFrom known a ++ changesFrom (a.getLast?.or known) b := by
  induction a generalizing known with
  | nil => simp
  | cons h a ih =>
    have hk : ((h :: a).getLast?).or known = (a.getLast?).or (some h) := by
      cases a with
      | nil => rfl
      | cons x a =>
        rw [List.getLast?_cons_cons]
        obtain ⟨y, hy⟩ := List.getLast?_isSome.2 (List.cons_ne_nil x a) |> Option.isSome_iff_exists.1
        rw [hy]
        rfl
    rw [List.cons_append, changesFrom_cons, changesFrom_cons, hk]
    split
    · rename_i e
      rw [ih, e]
    · rw [ih, List.cons_append]

/-- The last change, or the height known before, is the height last read, or the one known before. -/
theorem changesFrom_getLast? (known : Option Height) (hs : List Height) :
    ((changesFrom known hs).getLast?).or known = (hs.getLast?).or known := by
  induction hs generalizing known with
  | nil => simp
  | cons h hs ih =>
    rw [changesFrom_cons, List.getLast?_cons]
    split
    · rename_i e
      rw [ih, e]
      cases hs.getLast? <;> rfl
    · rw [List.getLast?_cons]
      have := ih (some h)
      cases h1 : (changesFrom (some h) hs).getLast? <;> cases h2 : hs.getLast? <;> simp_all

/-! ## Traces -/

theorem outputsAfter_append (o : Bool × Bool) (a b : List Action) :
    outputsAfter o (a ++ b) = outputsAfter (outputsAfter o a) b := by simp [outputsAfter]

theorem exclusiveThroughout_append (o : Bool × Bool) (a b : List Action) :
    exclusiveThroughout o (a ++ b) = (exclusiveThroughout o a && exclusiveThroughout (outputsAfter o a) b) := by
  induction a generalizing o with
  | nil => cases b <;> simp [exclusiveThroughout, outputsAfter]
  | cons x a ih => simp only [List.cons_append, exclusiveThroughout, ih, outputsAfter, List.foldl_cons, Bool.and_assoc]

end Sys2Proof.Machine
end

