-- ==== Sys2Proof/Tests/Slice0.lean ====
section
/-! SUPPORT. The model's own tests. Expected values are the rows of spec/95_test_vectors.md, named in each group; the
witnesses show, for every statement with hypotheses, a state and operands that meet them. -/

namespace Sys2Proof.Tests

open Sys2Proof.Machine

/-! ## Small states -/

/-- A configuration by strategy and scale, over the safety range (600, 1300) and the default ids. -/
def cfgOf (st : Strategy) (scale : Nat) : Cfg where
  strategy := st
  unitScale := scale
  safeMin := 600#16
  safeMax := 1300#16
  bufCap := some 512
  evalOnTick := false
  repeatMove := false
  ids := Config.defaultIds
  tickW := 32
  tickPeriod := 1000

/-- The state after RESET under `Outputs`, one count per unit. -/
def fresh : State := State.resetWith (cfgOf .outputs 1)

/-- The state after RESET under `Command`, one count per unit. -/
def freshC : State := State.resetWith (cfgOf .command 1)

/-- At rest at 700. -/
def at700 : State := { fresh with currentHeight := some 700#16 }

/-- Seeking up to 900 from 700 under `Outputs`, two ticks in. -/
def up900 : State :=
  { at700 with motion := .seeking .up, targetHeight := some 900#16, up := true, stateTicks := 2 }

/-- The same under `Command`. -/
def up900C : State :=
  { freshC with currentHeight := some 700#16, motion := .seeking .up, targetHeight := some 900#16, stateTicks := 2 }

/-- The state an outcome goes on in; the given one where it stops. -/
def nextOr (s : State) : Host.Outcome State Fault Refusal → State
  | .next t => t
  | .fault _ => s
  | .refused _ => s

/-- One step with the given operation pending. -/
def after (op : HostOp) (s : State) : State := nextOr s (step (s.setPending [op]))

/-- The frame of height 700 (S2). -/
def f700 : List Byte := [0xF2#8, 0xF2#8, 0x01#8, 0x03#8, 0x02#8, 0xBC#8, 0x00#8, 0xC2#8, 0x7E#8]

/-- The frame of height 701 (V-DEC 2). -/
def f701 : List Byte := [0xF2#8, 0xF2#8, 0x01#8, 0x03#8, 0x02#8, 0xBD#8, 0x00#8, 0xC3#8, 0x7E#8]

/-- The frame of limits 1240 and 620 (V-DEC 4). -/
def fLimits : List Byte := [0xF2#8, 0xF2#8, 0x07#8, 0x04#8, 0x04#8, 0xD8#8, 0x02#8, 0x6C#8, 0x55#8, 0x7E#8]

/-- The Frame of `f700` as a record. -/
def frame700 : Frame := ⟨.incoming, 0x01#8, 0x03#8, [0x02#8, 0xBC#8, 0x00#8], 0xC2#8, 0x7E#8⟩

/-! ## WellFormed: a payload of 256 bytes does not fit the length byte (R84) -/

theorem test_wf_refuses_slot37 : (Instr.memorySlotReading37 (List.replicate 256 0#8)).wf = false := by rw [Instr.wf, List.length_replicate]; decide
theorem test_wf_refuses_slot38 : (Instr.memorySlotReading38 (List.replicate 256 0#8)).wf = false := by rw [Instr.wf, List.length_replicate]; decide
theorem test_wf_refuses_slot39 : (Instr.memorySlotReading39 (List.replicate 256 0#8)).wf = false := by rw [Instr.wf, List.length_replicate]; decide
theorem test_wf_refuses_slot40 : (Instr.memorySlotReading40 (List.replicate 256 0#8)).wf = false := by rw [Instr.wf, List.length_replicate]; decide
theorem test_distinct_refuses_equal_ids :
    CommandIds.distinct { Config.defaultIds with moveDown := 0x01#8 } = false := by decide
theorem test_legal_refuses_small_buffer : Cfg.legal { cfgOf .outputs 1 with bufCap := some 260 } = false := by decide
theorem test_legal_refuses_scale_zero : Cfg.legal (cfgOf .outputs 0) = false := by decide
theorem test_legal_refuses_empty_safety_range : Cfg.legal { cfgOf .outputs 1 with safeMin := 1301#16 } = false := by decide

/-! ## Decoding: every row's frame written out (R88, R89, V-ENC, V-DEC) -/

theorem test_decode_moveUp :
    decode Config.defaultIds [0xF1#8, 0xF1#8, 0x01#8, 0x00#8, 0x01#8, 0x7E#8] = .instr .moveUp := by decide
theorem test_decode_moveDown :
    decode Config.defaultIds [0xF1#8, 0xF1#8, 0x02#8, 0x00#8, 0x02#8, 0x7E#8] = .instr .moveDown := by decide
theorem test_decode_stop :
    decode Config.defaultIds [0xF1#8, 0xF1#8, 0x2B#8, 0x00#8, 0x2B#8, 0x7E#8] = .instr .stop := by decide
theorem test_decode_goToHeight :
    decode Config.defaultIds [0xF1#8, 0xF1#8, 0x1B#8, 0x02#8, 0x03#8, 0xE8#8, 0x08#8, 0x7E#8] =
      .instr (.goToHeight 1000#16) := by decide
theorem test_decode_queryMemoryAndHeight :
    decode Config.defaultIds [0xF1#8, 0xF1#8, 0x07#8, 0x00#8, 0x07#8, 0x7E#8] = .instr .queryMemoryAndHeight := by decide
theorem test_decode_queryLimits :
    decode Config.defaultIds [0xF1#8, 0xF1#8, 0x0C#8, 0x00#8, 0x0C#8, 0x7E#8] = .instr .queryLimits := by decide
theorem test_decode_heightReading :
    decode Config.defaultIds [0xF2#8, 0xF2#8, 0x01#8, 0x03#8, 0x02#8, 0xBC#8, 0x07#8, 0xC9#8, 0x7E#8] =
      .instr (.heightReading 700#16 7#8) := by decide
theorem test_decode_slot37 :
    decode Config.defaultIds [0xF2#8, 0xF2#8, 0x25#8, 0x02#8, 0x02#8, 0xEE#8, 0x17#8, 0x7E#8] =
      .instr (.memorySlotReading37 [0x02#8, 0xEE#8]) := by decide
theorem test_decode_slot38 :
    decode Config.defaultIds [0xF2#8, 0xF2#8, 0x26#8, 0x02#8, 0x02#8, 0xEE#8, 0x18#8, 0x7E#8] =
      .instr (.memorySlotReading38 [0x02#8, 0xEE#8]) := by decide
theorem test_decode_slot39 :
    decode Config.defaultIds [0xF2#8, 0xF2#8, 0x27#8, 0x02#8, 0x02#8, 0xEE#8, 0x19#8, 0x7E#8] =
      .instr (.memorySlotReading39 [0x02#8, 0xEE#8]) := by decide
theorem test_decode_slot40 :
    decode Config.defaultIds [0xF2#8, 0xF2#8, 0x28#8, 0x02#8, 0x02#8, 0xEE#8, 0x1A#8, 0x7E#8] =
      .instr (.memorySlotReading40 [0x02#8, 0xEE#8]) := by decide
theorem test_decode_limitReading : decode Config.defaultIds fLimits = .instr (.limitReading 1240#16 620#16) := by decide

/-- S1's vector, V-ENC 97, 126 and 65535. -/
theorem test_encode_goToHeight :
    encode Config.defaultIds (.goToHeight 700#16) =
        [0xF1#8, 0xF1#8, 0x1B#8, 0x02#8, 0x02#8, 0xBC#8, 0xDB#8, 0x7E#8] ∧
      encode Config.defaultIds (.goToHeight 97#16) =
        [0xF1#8, 0xF1#8, 0x1B#8, 0x02#8, 0x00#8, 0x61#8, 0x7E#8, 0x7E#8] ∧
      encode Config.defaultIds (.goToHeight 126#16) =
        [0xF1#8, 0xF1#8, 0x1B#8, 0x02#8, 0x00#8, 0x7E#8, 0x9B#8, 0x7E#8] ∧
      encode Config.defaultIds (.goToHeight 65535#16) =
        [0xF1#8, 0xF1#8, 0x1B#8, 0x02#8, 0xFF#8, 0xFF#8, 0x1B#8, 0x7E#8] := by decide

/-- V-ENC: an id equal to a marker byte is emitted as it is. -/
theorem test_encode_marker_id :
    encodeCommand { Config.defaultIds with moveUp := 0xF1#8 } .moveUp =
      [0xF1#8, 0xF1#8, 0xF1#8, 0x00#8, 0xF1#8, 0x7E#8] := by decide

/-- R89's last row and R91: rejected by name. V-NF 3, 1, 4, 2 and V-ENC's last row. -/
theorem test_decode_rejects :
    decode Config.defaultIds [0xF2#8, 0xF2#8, 0x05#8, 0x00#8, 0x05#8, 0x7E#8] = .reject (.noRow 5#8 0#8) ∧
      decode Config.defaultIds [0xF2#8, 0xF2#8, 0x00#8, 0x7E#8] = .reject (.notAFrame .tooShort) ∧
      decode Config.defaultIds [0xF2#8, 0xF2#8, 0x01#8, 0x03#8, 0x02#8, 0xBC#8, 0x00#8, 0xC3#8, 0x7E#8] =
        .reject (.notAFrame .checksum) ∧
      decode Config.defaultIds [0xF2#8, 0xF2#8, 0x01#8, 0x03#8, 0x04#8, 0x7E#8] = .reject (.notAFrame .length) ∧
      decode Config.defaultIds [0xF1#8, 0xF1#8, 0x1B#8, 0x02#8, 0x02#8, 0xBC#8, 0xDB#8, 0x7F#8] =
        .reject (.notAFrame .marker) := by decide

/-- The opcode table's words (R95): GoToHeight, HeightReading and LimitReading with operands of zeros. -/
theorem test_table_words :
    decodeTableWord 32 0xF1F11B02 = some (.goToHeight 0#16) ∧
      decodeTableWord 32 0xF2F20103 = some (.heightReading 0#16 0#8) ∧
      decodeTableWord 32 0xF2F20704 = some (.limitReading 0#16 0#16) ∧
      decodeTableWord 32 0xF1F10C00 = some .queryLimits := by decide

/-- The first step after reset runs a table word's instruction. -/
theorem test_fetch_limitReading :
    nextOr fresh (step (fresh.withFetchWord 32 0xF2F20704)) =
      { fresh with maxHeight := some 0#16, minHeight := some 0#16, result := .published [] } := by decide
theorem test_fetch_moveUp :
    (nextOr fresh (step (fresh.withFetchWord 32 0xF1F10100))).result =
      .bytes [0xF1#8, 0xF1#8, 0x01#8, 0x00#8, 0x01#8, 0x7E#8] := by decide

/-! ## The instructions (V-ENC, S2, V-DEC, V-SES) -/

theorem test_exec_moveDown :
    (nextOr freshC (exec .moveDown freshC)).result = .bytes [0xF1#8, 0xF1#8, 0x02#8, 0x00#8, 0x02#8, 0x7E#8] := by decide
theorem test_exec_stop_state :
    nextOr up900 (exec .stop up900) =
      { up900 with result := .bytes [0xF1#8, 0xF1#8, 0x2B#8, 0x00#8, 0x2B#8, 0x7E#8] } := by decide
theorem test_exec_goToHeight :
    (nextOr freshC (exec (.goToHeight 256#16) freshC)).result =
      .bytes [0xF1#8, 0xF1#8, 0x1B#8, 0x02#8, 0x01#8, 0x00#8, 0x1E#8, 0x7E#8] := by decide
theorem test_exec_queryMemoryAndHeight :
    (nextOr fresh (exec .queryMemoryAndHeight fresh)).result =
      .bytes [0xF1#8, 0xF1#8, 0x07#8, 0x00#8, 0x07#8, 0x7E#8] := by decide
theorem test_exec_queryLimits :
    (nextOr fresh (exec .queryLimits fresh)).result = .bytes [0xF1#8, 0xF1#8, 0x0C#8, 0x00#8, 0x0C#8, 0x7E#8] := by
  decide

/-- V-MOT 16's stop, reached through a reading. -/
theorem test_exec_heightReading_stops :
    (nextOr up900 (exec (.heightReading 900#16 0#8) up900)).trace =
      [.publish 900#16, .enter .stopping, .set .up false, .set .down false, .enter .idle] := by decide
/-- S9: the same height again publishes nothing. -/
theorem test_exec_heightReading_again : (nextOr at700 (exec (.heightReading 700#16 9#8) at700)).trace = [] := by decide
/-- V-DEC 6: stored as received. -/
theorem test_exec_limitReading :
    nextOr fresh (exec (.limitReading 620#16 1240#16) fresh) =
      { fresh with
        maxHeight := some 620#16, minHeight := some 1240#16, result := .event (some (.limitReading 620#16 1240#16)) } := by
  decide
/-- V-SES 5: one payload byte is an underflow. -/
theorem test_exec_slot37_short :
    (nextOr fresh (exec (.memorySlotReading37 [5#8]) fresh)).trace = [.log (.underflowError 37#8 1)] := by decide
theorem test_exec_slot38 :
    (nextOr fresh (exec (.memorySlotReading38 [2#8, 0xEE#8]) fresh)).result =
      .event (some (.memorySlotReading 38#8 750#16)) := by decide
/-- V-DEC 11: later payload bytes are ignored. -/
theorem test_exec_slot39 :
    (nextOr fresh (exec (.memorySlotReading39 [2#8, 0xEE#8, 9#8]) fresh)).result =
      .event (some (.memorySlotReading 39#8 750#16)) := by decide
theorem test_exec_slot40_empty :
    (nextOr fresh (exec (.memorySlotReading40 []) fresh)).trace = [.log (.underflowError 40#8 0)] := by decide

/-! ## The framer and FEED (V-NF, V-FEED) -/

/-- V-NF 12: a phantom frame inside a corrupted one. -/
theorem test_nextFrame_phantom :
    nextFrame { fresh with
      buf := [0xF2#8, 0xF2#8, 0x10#8, 0x07#8, 0xF2#8, 0xF2#8, 0x01#8, 0x03#8, 0x02#8, 0xBC#8, 0x00#8, 0xC2#8, 0x7E#8] } =
      (some frame700, { fresh with trace := [.log (.frameError .checksum)] }) := by decide
/-- V-NF 10: an inner marker is not looked at while the outer frame validates. -/
theorem test_nextFrame_first_match :
    ((nextFrame { fresh with
      buf := [0xF2#8, 0xF2#8, 0x07#8, 0x04#8, 0xF2#8, 0xF2#8, 0x01#8, 0x00#8, 0xF0#8, 0x7E#8] }).1.map (·.payload)) =
      some [0xF2#8, 0xF2#8, 0x01#8, 0x00#8] := by decide
/-- V-NF 6 and 7. -/
theorem test_nextFrame_waits :
    nextFrame { fresh with buf := [0xAA#8, 0xBB#8, 0xF2#8, 0xF2#8, 0x01#8] } =
        (none, { fresh with buf := [0xF2#8, 0xF2#8, 0x01#8] }) ∧
      nextFrame { fresh with buf := [0x00#8, 0x7E#8, 0x41#8, 0xF2#8] } = (none, { fresh with buf := [0xF2#8] }) := by
  decide
/-- V-FEED 4, with a capacity of 4. -/
theorem test_feed_drops_the_oldest :
    after (.feed [0xF2#8]) { fresh with cfg := { fresh.cfg with bufCap := some 4 }, buf := [0#8, 1#8, 2#8, 3#8] } =
      { fresh with
        cfg := { fresh.cfg with bufCap := some 4 }, buf := [1#8, 2#8, 3#8, 0xF2#8],
        trace := [.log (.bufferOverflow 1)] } := by decide

/-! ## The controller and the session (V-MOT, V-SES) -/

/-- V-MOT 10: a reversal under `Command`. -/
theorem test_setTarget_reverses :
    (after (.setTarget 650#16) up900C).trace =
      [.emit .stop [0xF1#8, 0xF1#8, 0x2B#8, 0x00#8, 0x2B#8, 0x7E#8], .enter (.seeking .down),
       .emit .moveDown [0xF1#8, 0xF1#8, 0x02#8, 0x00#8, 0x02#8, 0x7E#8]] := by decide
/-- V-MOT 9 and 12: a retarget on the same side keeps the counter; a rejection keeps the target. -/
theorem test_setTarget_keeps :
    ((after (.setTarget 1000#16) up900C).stateTicks = 2 ∧ (after (.setTarget 1000#16) up900C).trace = []) ∧
      (after (.setTarget 1301#16) up900).targetHeight = some 900#16 := by decide
/-- V-MOT 13: overshoot is not detected. -/
theorem test_positionUpdate_overshoot :
    (after (.positionUpdate 901#16) up900).motion = .seeking .up ∧ (after (.positionUpdate 901#16) up900).up = true := by
  decide
/-- V-MOT 19: the counter saturates. -/
theorem test_tick_saturates :
    (after .tick { fresh with stateTicks := 4294967294 }).stateTicks = 4294967295 ∧
      (after .tick { fresh with stateTicks := 4294967295 }).stateTicks = 4294967295 := by decide
/-- V-MOT 20: a repeated Move. -/
theorem test_tick_repeats_the_move :
    (after .tick { up900C with cfg := { up900C.cfg with repeatMove := true, evalOnTick := true } }).trace =
      [.emit .moveUp [0xF1#8, 0xF1#8, 0x01#8, 0x00#8, 0x01#8, 0x7E#8]] := by decide
/-- S4: the band's edge at ten counts a unit. -/
theorem test_band_edge :
    inBand (cfgOf .outputs 10) 6000#16 6008#16 = true ∧ inBand (cfgOf .outputs 10) 6000#16 6009#16 = false := by decide
/-- V-SES 6, two readings. -/
theorem test_ingest_publishes_changes :
    (after (.ingestBytes (f700 ++ f701 ++ f700)) freshC).result = .published [700#16, 701#16, 700#16] := by decide
/-- V-SES 8. -/
theorem test_render :
    render (cfgOf .command 1) 700#16 = ['7', '0', '.', '0'] ∧
      render (cfgOf .command 1) 1005#16 = ['1', '0', '0', '.', '5'] ∧
      render (cfgOf .command 1) 7#16 = ['0', '.', '7'] := ⟨rfl, rfl, rfl⟩
/-- P3, step 0. -/
theorem test_reset_trace : (after (.reset (cfgOf .outputs 10)) up900).trace = [.set .up false, .set .down false] := by
  decide

/-! ## Witnesses: a state and operands that meet the hypotheses of each statement, at the boundaries of its clauses -/

/-- The greatest payload, and the default ids (DecodeEncodeRoundTrip). -/
theorem witness_roundTrip :
    Config.defaultIds.distinct = true ∧ (Instr.memorySlotReading37 (List.replicate 255 0#8)).wf = true :=
  ⟨by decide, by rw [Instr.wf, List.length_replicate]; decide⟩

/-- Bytes that decode (DecodedBytesAreTheEncoding). -/
theorem witness_decodedBytes : decode Config.defaultIds f701 = .instr (.heightReading 701#16 0#8) := by decide

/-- A span that validates and one with another checksum byte (ChecksumIsTheSumModulo256); one span for each verdict
(SpanChecksInOrder): V-NF 1, 23, 4, 2. -/
theorem witness_spans :
    validSpan f700 .incoming = .ok ∧
      validSpan [0xF2#8, 0xF2#8, 0x01#8, 0x03#8, 0x02#8, 0xBC#8, 0x00#8, 0xC3#8, 0x7E#8] .incoming = .bad .checksum ∧
      validSpan [0xF2#8, 0xF2#8, 0x05#8, 0x00#8, 0x7E#8] .incoming = .bad .tooShort ∧
      validSpan f700 .outgoing = .bad .marker ∧
      validSpan [0xF2#8, 0xF2#8, 0x01#8, 0x03#8, 0x04#8, 0x7E#8] .incoming = .bad .length := by decide

/-- Echoes of 700, 126, 97 and 32256 (EchoReturnedUnlessItHoldsAnEndByte): the first is returned (V-NF 18, 19). -/
theorem witness_echo :
    (nextFrame { fresh with buf := [0xF2#8, 0xF2#8] ++ (encodeCommand fresh.cfg.ids (.goToHeight 700#16)).drop 2 }).1.isSome
        = true ∧
      (nextFrame { fresh with buf := [0xF2#8, 0xF2#8] ++ (encodeCommand fresh.cfg.ids (.goToHeight 126#16)).drop 2 }).1
        = none ∧
      (nextFrame { fresh with buf := [0xF2#8, 0xF2#8] ++ (encodeCommand fresh.cfg.ids (.goToHeight 97#16)).drop 2 }).1
        = none ∧
      (nextFrame { fresh with buf := [0xF2#8, 0xF2#8] ++ (encodeCommand fresh.cfg.ids (.goToHeight 32256#16)).drop 2 }).1
        = none := by decide

/-- A Command's row and a telemetry row (CommandsLeaveTheStateAlone, TelemetryRowsFrame). -/
theorem witness_directions :
    (Instr.goToHeight 700#16).command? = some (.goToHeight 700#16) ∧ (Instr.limitReading 1#16 0#16).command? = none := by
  decide

/-- MemorySlotReadingsComplete's short payloads. -/
theorem witness_short_payloads : ([] : List Byte).length < 2 ∧ [5#8].length < 2 ∧ ¬[5#8, 6#8].length < 2 := by decide

/-- A Frame for every clause of DecodeSelectsByIdAndLength: a height, slots of length 2, 1 and 0, limits. -/
theorem witness_decode_frames :
    frame700.wf = true ∧
      (frameWith .incoming 40#8 [2#8, 0xEE#8]).wf = true ∧
      telemetryOf (frameWith .incoming 40#8 [2#8, 0xEE#8]) = .event (.memorySlotReading 40#8 750#16) ∧
      (frameWith .incoming 37#8 [5#8]).wf = true ∧
      telemetryOf (frameWith .incoming 37#8 [5#8]) = .underflow 37#8 1 ∧
      telemetryOf (frameWith .incoming 37#8 []) = .underflow 37#8 0 ∧
      (frameWith .incoming 7#8 [4#8, 0xD8#8, 2#8, 0x6C#8]).wf = true ∧
      telemetryOf (frameWith .incoming 7#8 [4#8, 0xD8#8, 2#8, 0x6C#8]) = .event (.limitReading 1240#16 620#16) := by decide

/-- A Frame for every clause of UnrecognisedFramesGiveNothing (V-DEC 12, 13, 14), and a state whose next Frame is one; the
first is also RunningAFrameIsDecodeThenApply's "selects no row". -/
theorem witness_unrecognised :
    (frameWith .incoming 16#8 [1#8, 2#8]).wf = true ∧ instrOfIncoming (frameWith .incoming 16#8 [1#8, 2#8]) = none ∧
      (frameWith .incoming 1#8 [2#8, 0xBC#8]).wf = true ∧ (frameWith .incoming 1#8 [2#8, 0xBC#8]).length ≠ 3#8 ∧
      (frameWith .incoming 7#8 [4#8, 0xD8#8, 2#8]).wf = true ∧ (frameWith .incoming 7#8 [4#8, 0xD8#8, 2#8]).length ≠ 4#8 ∧
      (nextFrame { fresh with buf := (frameWith .incoming 16#8 [1#8, 2#8]).bytes }).1 =
        some (frameWith .incoming 16#8 [1#8, 2#8]) := by decide

/-- A Frame that selects a row with an event and one with an underflow (RunningAFrameIsDecodeThenApply). -/
theorem witness_running :
    instrOfIncoming frame700 = some (.heightReading 700#16 0#8) ∧
      instrOfIncoming (frameWith .incoming 37#8 [5#8]) = some (.memorySlotReading37 [5#8]) := by decide

/-- A marker with garbage before it and no end byte after it (TerminatorSearchFindsTheFirst, third clause; V-NF 6). -/
theorem witness_no_terminator :
    findMarker [0xAA#8, 0xBB#8, 0xF2#8, 0xF2#8, 0x01#8] = some [0xAA#8, 0xBB#8].length ∧ 0x7E#8 ∉ [0x01#8] := by decide

/-- No marker, with and without a trailing half (NoMarkerKeepsATrailingHalf; V-NF 7, 8), and the empty buffer. -/
theorem witness_no_marker :
    findMarker [0x00#8, 0x7E#8, 0x41#8, 0xF2#8] = none ∧ findMarker [0x00#8, 0xF2#8, 0x41#8] = none ∧
      [0x00#8, 0xF2#8, 0x41#8].getLast? ≠ some 0xF2#8 ∧ ([] : List Byte).getLast? ≠ some 0xF2#8 := by decide

/-- A failing candidate (FailedCandidateLosesOneByte; V-NF 13). -/
theorem witness_failed_candidate :
    (0xF2#8 :: f700).take 2 = [0xF2#8, 0xF2#8] ∧ findEnd (0xF2#8 :: f700) = some ((0xF2#8 :: f700).length - 1) ∧
      validSpan (0xF2#8 :: f700) .incoming = .bad .checksum := by decide

/-- A whole Frame with no end byte inside (WholeFrameIsReturned, ReturnedFrameStoodInTheBuffer,
CorruptionNeverLosesTheNextFrame with the corrupted frame of V-NF 16 before it). -/
theorem witness_whole_frame :
    frame700.wf = true ∧ frame700.startMarker = .incoming ∧ frame700.bytes = f700 ∧ noInnerEnd frame700.bytes = true ∧
      (nextFrame { fresh with buf := f700 ++ [0xF2#8] }).1 = some frame700 ∧
      [0xF2#8, 0xF2#8, 0x01#8, 0x03#8, 0x02#8, 0x7E#8, 0x00#8, 0x84#8, 0x7E#8].getLast? = some 0x7E#8 := by decide

/-- `None` with each of the three buffers left (AfterNoneTheFramerWaits). -/
theorem witness_none :
    nextFrame fresh = (none, fresh) ∧
      nextFrame { fresh with buf := [0x41#8, 0xF2#8] } = (none, { fresh with buf := [0xF2#8] }) ∧
      nextFrame { fresh with buf := [0xF2#8, 0xF2#8, 0x01#8] } = (none, { fresh with buf := [0xF2#8, 0xF2#8, 0x01#8] }) := by
  decide

/-- Both capacities of FeedDropsTheOldest, a buffer that fits, and chunks that fit (FramesDoNotDependOnChunks,
IngestDoesNotDependOnChunks). -/
theorem witness_feed :
    fresh.cfg.bufCap = some 512 ∧ ({ cfgOf .outputs 1 with bufCap := none } : Cfg).bufCap = none ∧
      Memory.wf fresh.cfg.bufCap fresh.buf = true ∧
      Memory.wf fresh.cfg.bufCap (fresh.buf ++ [f700.take 5, f700.drop 5, []].flatten) = true := by decide

/-- RangeIsLimitsElseSafety and RejectedTargetChangesNothing: limits known and not, rejected for each reason (S5, V-MOT 1,
4), at the closed bounds. -/
theorem witness_range :
    inRange { fresh with maxHeight := some 1240#16, minHeight := some 620#16 } 620#16 = true ∧
      inRange { fresh with maxHeight := some 1240#16, minHeight := some 620#16 } 1241#16 = false ∧
      fresh.maxHeight = none ∧ inRange fresh 599#16 = false ∧ inRange fresh 1300#16 = true ∧ fresh.currentHeight = none := by
  decide

/-- AcceptedTargetFromIdle, both branches and both directions; the bounds of V-MOT 3, 5. -/
theorem witness_idle :
    at700.motion = .idle ∧ at700.currentHeight = some 700#16 ∧ inRange at700 700#16 = true ∧
      inBand at700.cfg 700#16 700#16 = true ∧ inRange at700 600#16 = true ∧ inBand at700.cfg 700#16 600#16 = false ∧
      inRange at700 1300#16 = true ∧ inBand at700.cfg 700#16 1300#16 = false := by decide

/-- AcceptedTargetWhileSeeking's three branches, TargetingTheCurrentHeightStops. -/
theorem witness_seeking :
    up900.motion = .seeking .up ∧ up900.currentHeight = some 700#16 ∧ inRange up900 700#16 = true ∧
      inRange up900 1000#16 = true ∧ dir 700#16 1000#16 = .up ∧ inRange up900 650#16 = true ∧ dir 700#16 650#16 = .down := by
  decide

/-- EvaluationStopsInBand and EvaluationNeverStopsOutOfBand: a seek in band, out of band, and no seek; with and without
`EVAL_ON_TICK`. -/
theorem witness_evaluate :
    inBand up900.cfg 700#16 900#16 = false ∧ up900.targetHeight = some 900#16 ∧
      (evaluate { up900 with currentHeight := some 900#16 }).motion ≠ { up900 with currentHeight := some 900#16 }.motion ∧
      at700.targetHeight = none ∧ up900.currentHeight ≠ some 701#16 ∧ up900.cfg.evalOnTick = false ∧
      { up900.cfg with evalOnTick := true }.evalOnTick = true := by decide

/-- PositionUpdateOutsideASeekOnlyRecords and TickCountsAndSaturates at the counter's last value. -/
theorem witness_rest :
    at700.currentHeight = some 700#16 ∧ at700.motion = .idle ∧
      { fresh with stateTicks := 4294967295 }.stateTicks < 2 ^ fresh.cfg.tickW := by decide

/-- HalfAUnitAwayStartsNothing (S4). -/
theorem witness_half_a_unit :
    (cfgOf .outputs 10).unitScale = 2 * 5 ∧ (705#16).toNat = (700#16).toNat + 5 ∧
      inRange { at700 with cfg := cfgOf .outputs 10 } 705#16 = true := by decide

/-- StepRunsTheDecodedTelemetry. -/
theorem witness_step_telemetry :
    (fresh.setPending [.ingestBytes f700]).pending = [.ingestBytes f700] ∧ fresh.buf = [] ∧
      Memory.wf fresh.cfg.bufCap f700 = true ∧ decode fresh.cfg.ids f700 = .instr (.heightReading 700#16 0#8) ∧
      noInnerEnd f700 = true := by decide

/-- StepRunsTheCommand's three clauses. -/
theorem witness_step_command :
    (fresh.setPending [.encode .stop]).pending = [.encode .stop] ∧
      decode fresh.cfg.ids (tableWordBytes 32 0xF1F11B02) = .instr (.goToHeight 0#16) ∧ fresh.pending = [] := by decide

/-- RequestHeightForwards: accepted and rejected. -/
theorem witness_request :
    (after (.requestHeight 900#16) at700).result = .accepted true ∧
      (after (.requestHeight 900#16) fresh).result = .accepted false := by decide

/-- IngestPublishesEachChangeOnce, on R232's own example after an unchanged reading: every change is published. -/
theorem witness_ingest :
    heightsRead (takeFrames (feed (f700 ++ f701 ++ f700) at700)).1 = [700#16, 701#16, 700#16] ∧
      (nextOr at700 (ingestBytes (f700 ++ f701 ++ f700) at700)).result = .published [701#16, 700#16] ∧
      (nextOr at700 (ingestBytes (f700 ++ f701 ++ f700) at700)).currentHeight = some 700#16 := by decide

/-- A boundary state in a seek, with its trace (StepKeepsTheBoundaryState, OutputsNeverBothAsserted, LegalRunsNeverStop,
MotionChangesOnlyAsListed), and operations for it: it keeps on, stops, and turns. -/
def moving : State :=
  { up900 with
    trace := [.enter (.seeking .up), .set .down false, .set .up true], pending := [.positionUpdate 900#16, .tick] }

theorem witness_boundary : BoundaryInv moving ∧ TraceSafe moving ∧ ∀ op ∈ moving.pending, legalOp op = true := by
  refine ⟨⟨by decide, by decide, by decide, ⟨rfl, rfl⟩, fun d _ => by decide +revert, by decide⟩, ?_, by decide⟩
  unfold TraceSafe
  decide

/-- MotionChangesOnlyAsListed, every disjunct from a boundary state: an evaluation in band at a position update, at a tick
and in a chunk, an accepted target in band, RESET, a reversal, a seek from rest, and no change out of band. -/
theorem witness_moves :
    (nextOr moving (step moving)).motion = .idle ∧
      (after .tick { moving with cfg := { moving.cfg with evalOnTick := true }, currentHeight := some 900#16 }).motion = .idle ∧
      (after (.ingestBytes f701) { moving with targetHeight := some 701#16 }).motion = .idle ∧
      (after (.requestHeight 700#16) moving).motion = .idle ∧ (after (.reset moving.cfg) moving).motion = .idle ∧
      (after (.setTarget 650#16) moving).motion = .seeking .down ∧ (after (.setTarget 650#16) at700).motion = .seeking .down ∧
      (after (.positionUpdate 901#16) moving).motion = moving.motion := by decide

/-- StepStopsOnlyHere: each stop is reached, from a state no run reaches and from a record that is no Frame. -/
theorem witness_stops :
    step { at700 with motion := .stopping, pending := [.setTarget 900#16] } = .fault .stoppingAtBoundary ∧
      step { at700 with pending := [.decode { frame700 with checksum := 0#8 }] } = .refused .notAFrame := ⟨rfl, rfl⟩

/-- EachFieldHasItsWriters, CurrentHeightStaysKnown and PortsFollowTheStrategy: a step with an operation that is no RESET. -/
theorem witness_writers :
    (nextOr moving (step moving)).pending = [.tick] ∧ moving.currentHeight ≠ none ∧
      (nextOr moving (step moving)).currentHeight = some 900#16 := by decide

/-- DecodeAnswersAndAppliesNothing, each branch (V-DEC 1, 9, 12): the event is answered and the height stays unknown, an
underflow is logged, an unknown id gives nothing. -/
theorem witness_decode_op :
    after (.decode frame700) fresh = { fresh with result := .event (some (.heightReading 700#16)) } ∧
      (frameWith .incoming 37#8 [5#8]).wf = true ∧
      (after (.decode (frameWith .incoming 37#8 [5#8])) fresh).trace = [.log (.underflowError 37#8 1)] ∧
      after (.decode (frameWith .incoming 16#8 [1#8, 2#8])) fresh = { fresh with result := .event none } := by decide

end Sys2Proof.Tests
end

section
/-! The invariant of O51: the ports are safe at every point inside an operation, not only at its boundaries. Each named
operation keeps it, so each host operation does, so a step does. -/

namespace Sys2Proof.Machine

/-- The trace so far is safe (R32), and the outputs themselves are not both asserted. Unlike `BoundaryInv` it does not
relate the outputs to `motion`, so it holds between the actions of one operation too. -/
def PortsSafe (s : State) : Prop := TraceSafe s ∧ ¬(s.up = true ∧ s.down = true)

variable {s t : State}

@[simp] theorem opp_up : Direction.up.opp = .down := rfl
@[simp] theorem opp_down : Direction.down.opp = .up := rfl

/-! ## Traces -/

/-- One point of a trace. -/
theorem exclusiveThroughout_nil (o : Bool × Bool) :
    exclusiveThroughout o [] = true ↔ ¬(o.1 = true ∧ o.2 = true) := by
  rw [exclusiveThroughout, Bool.not_eq_true', ← Bool.not_eq_true, Bool.and_eq_true]

/-- The outputs at the start of a trace are a point of it, and the rest is a trace from the next point. -/
theorem exclusiveThroughout_cons (o : Bool × Bool) (a : Action) (rest : List Action) :
    exclusiveThroughout o (a :: rest) =
      (exclusiveThroughout o [] && exclusiveThroughout (outputsAfterAction o a) rest) := rfl

/-- The end of a trace is a point of it. -/
theorem exclusiveThroughout_end {o : Bool × Bool} {tr : List Action} (h : exclusiveThroughout o tr = true) :
    exclusiveThroughout (outputsAfter o tr) [] = true := by
  have happ : exclusiveThroughout o (tr ++ []) = true := by rwa [List.append_nil]
  rw [exclusiveThroughout_append, Bool.and_eq_true] at happ
  exact happ.2

/-- One more action keeps a trace exclusive when the outputs it leaves are not both asserted. -/
theorem exclusiveThroughout_concat {o : Bool × Bool} {tr : List Action} {a : Action}
    (htr : exclusiveThroughout o tr = true) (ha : exclusiveThroughout (outputsAfter o (tr ++ [a])) [] = true) :
    exclusiveThroughout o (tr ++ [a]) = true := by
  rw [outputsAfter_append] at ha
  rw [exclusiveThroughout_append, exclusiveThroughout_cons, htr, exclusiveThroughout_end htr]
  exact ha

/-! ## Field writes: the invariant reads the configuration, the outputs and the trace only -/

@[simp] theorem portsSafe_setBuf (m : Memory) : PortsSafe (s.setBuf m) ↔ PortsSafe s := Iff.rfl
@[simp] theorem portsSafe_setCurrentHeight (h : Option Height) : PortsSafe (s.setCurrentHeight h) ↔ PortsSafe s := Iff.rfl
@[simp] theorem portsSafe_setLimits (mx mn : Height) : PortsSafe (s.setLimits mx mn) ↔ PortsSafe s := Iff.rfl
@[simp] theorem portsSafe_setTargetHeight (h : Option Height) : PortsSafe (s.setTargetHeight h) ↔ PortsSafe s := Iff.rfl
@[simp] theorem portsSafe_setMotion (m : Motion) : PortsSafe (s.setMotion m) ↔ PortsSafe s := Iff.rfl
@[simp] theorem portsSafe_setTicks (n : Nat) : PortsSafe (s.setTicks n) ↔ PortsSafe s := Iff.rfl
@[simp] theorem portsSafe_setPending (ops : List HostOp) : PortsSafe (s.setPending ops) ↔ PortsSafe s := Iff.rfl
@[simp] theorem portsSafe_returns (r : OpResult) : PortsSafe (s.returns r) ↔ PortsSafe s := Iff.rfl
@[simp] theorem portsSafe_consume (k : Nat) : PortsSafe (s.consume k) ↔ PortsSafe s := Iff.rfl

/-! ## Actions -/

/-- An action that writes no output keeps the ports safe. -/
protected theorem PortsSafe.act {a : Action} (hs : PortsSafe s) (ha : ∀ o, outputsAfterAction o a = o) : PortsSafe (s.act a) := by
  obtain ⟨⟨hexcl, houts⟩, hboth⟩ := hs
  have hsame : outputsAfter (false, false) (s.trace ++ [a]) = outputsAfter (false, false) s.trace := by
    rw [outputsAfter_append]
    exact ha _
  refine ⟨⟨exclusiveThroughout_concat hexcl ?_, fun hst => hsame.trans (houts hst)⟩, hboth⟩
  rw [hsame]
  exact exclusiveThroughout_end hexcl

protected theorem PortsSafe.emit (c : Command) (hs : PortsSafe s) : PortsSafe (emit c s) := hs.act fun _ => rfl

protected theorem PortsSafe.publish (h : Height) (hs : PortsSafe s) : PortsSafe (publish h s) := hs.act fun _ => rfl

protected theorem PortsSafe.enter (m : Motion) (hs : PortsSafe s) : PortsSafe (enter m s) :=
  PortsSafe.act ((portsSafe_setMotion m).2 hs) fun _ => rfl

/-- Every error record is a log entry, whatever it drops. -/
protected theorem PortsSafe.raiseError (e : ErrorRecord) (hs : PortsSafe s) : PortsSafe (raiseError e s) := by
  have hlog : PortsSafe (s.act (.log e)) := hs.act fun _ => rfl
  cases e <;> exact hlog

/-- Under `Outputs` an output write keeps the ports safe when it asserts nothing, or the opposite output is not asserted
(R188, R189). -/
protected theorem PortsSafe.setOutput {d : Direction} {b : Bool} (hs : PortsSafe s) (hst : s.cfg.strategy = .outputs)
    (hopp : b = true → s.output d.opp = false) : PortsSafe (setOutput d b s) := by
  obtain ⟨⟨hexcl, houts⟩, hboth⟩ := hs
  have hnow : outputsAfter (false, false) (setOutput d b s).trace = ((setOutput d b s).up, (setOutput d b s).down) := by
    rw [setOutput_trace, outputsAfter_append, houts hst]
    cases d <;> rfl
  have hnot : ¬((setOutput d b s).up = true ∧ (setOutput d b s).down = true) := by
    cases b with
    | false => cases d <;> simp
    | true =>
      have hoff : s.output d.opp = false := hopp rfl
      cases d <;> simpa using hoff
  refine ⟨⟨?_, fun _ => hnow⟩, hnot⟩
  rw [setOutput_trace] at hnow ⊢
  refine exclusiveThroughout_concat hexcl ?_
  rw [hnow]
  exact (exclusiveThroughout_nil _).2 hnot

/-- A write of `false` under `Outputs`. -/
protected theorem PortsSafe.setOutput_false (d : Direction) (hs : PortsSafe s) (hst : s.cfg.strategy = .outputs) :
    PortsSafe (setOutput d false s) := hs.setOutput hst nofun

/-! ## MotionController -/

/-- `drive` asserts an output only after the opposite one was written false (R188). -/
protected theorem PortsSafe.drive (d : Direction) (hs : PortsSafe s) : PortsSafe (drive d s) := by
  unfold drive
  split
  · rename_i hst
    exact (hs.setOutput_false d.opp hst).setOutput (by simpa using hst) fun _ => by cases d <;> rfl
  · exact hs.emit _

protected theorem PortsSafe.stopSeq (hs : PortsSafe s) : PortsSafe (stopSeq s) := by
  unfold stopSeq
  dsimp only
  split
  · rename_i hst
    exact (((hs.enter .stopping).setOutput_false .up hst).setOutput_false .down hst).enter .idle
  · exact ((hs.enter .stopping).emit .stop).enter .idle

protected theorem PortsSafe.reverse (d : Direction) (hs : PortsSafe s) : PortsSafe (reverse d s) := by
  unfold reverse
  dsimp only
  split
  · exact (hs.enter _).drive d
  · exact ((hs.emit .stop).enter _).drive d

protected theorem PortsSafe.evaluate (hs : PortsSafe s) : PortsSafe (evaluate s) := by
  rcases evaluate_cases s with h | ⟨d, _, h⟩ | ⟨d, _, _, h⟩ <;> rw [h]
  · exact hs
  · exact hs.stopSeq
  · exact hs.drive d

protected theorem PortsSafe.positionUpdate (h : Height) (hs : PortsSafe s) : PortsSafe (positionUpdate h s) := by
  unfold positionUpdate
  split
  · exact hs
  · exact PortsSafe.evaluate ((portsSafe_setCurrentHeight _).2 hs)

protected theorem PortsSafe.tick (hs : PortsSafe s) : PortsSafe (tick s) := by
  have hcount : PortsSafe (countTick s) := by unfold countTick; split <;> simpa using hs
  unfold tick
  split
  · exact hcount.evaluate
  · exact hcount

protected theorem PortsSafe.of_seekTo {c h : Height} (hs : PortsSafe s) (ht : seekTo c h s = .next t) : PortsSafe t := by
  rcases seekTo_cases s c h with e | ⟨_, e⟩ | ⟨d, _, e⟩ | ⟨d, _, _, e⟩ | ⟨_, e⟩ <;> cases e.symm.trans ht
  · exact hs
  · exact (hs.enter _).drive _
  · exact hs.stopSeq
  · exact hs.reverse _

protected theorem PortsSafe.of_setTarget {h : Height} (hs : PortsSafe s) (ht : setTarget h s = .next t) : PortsSafe t := by
  rcases setTarget_cases s h with ⟨_, e⟩ | ⟨_, _, e⟩ | ⟨c, _, _, e⟩ <;> rw [e] at ht
  · cases ht
    exact hs.raiseError _
  · cases ht
    exact hs.raiseError _
  · obtain ⟨u, hu, hret⟩ := andThen_eq_next ht
    cases hret
    exact (portsSafe_returns _).2 (PortsSafe.of_seekTo ((portsSafe_setTargetHeight _).2 hs) hu)

/-! ## Events and instructions -/

protected theorem PortsSafe.reportDecoding (d : Decoding) (hs : PortsSafe s) : PortsSafe (reportDecoding d s) := by
  cases d with
  | event e => exact hs
  | underflow cid len => exact hs.raiseError _
  | nothing => exact hs

protected theorem PortsSafe.receiveEvent (e : TelemetryEvent) (hs : PortsSafe s) : PortsSafe (receiveEvent e s) := by
  cases e with
  | heightReading h =>
    rw [receiveEvent_heightReading]
    split
    · exact hs
    · exact (PortsSafe.publish h ((portsSafe_returns _).2 hs)).positionUpdate h
  | memorySlotReading i h => exact hs
  | limitReading mx mn => exact hs

protected theorem PortsSafe.receiveSlot (i : Byte) (p : List Byte) (hs : PortsSafe s) : PortsSafe (receiveSlot i p s) := by
  unfold receiveSlot
  split
  · exact hs.receiveEvent _
  · exact hs.reportDecoding _

/-- A Command's row only answers bytes; a telemetry row receives its event. -/
protected theorem PortsSafe.of_exec {i : Instr} (hs : PortsSafe s) (ht : exec i s = .next t) : PortsSafe t := by
  cases i <;> cases ht
  case heightReading h extra => exact hs.receiveEvent _
  case limitReading mx mn => exact hs.receiveEvent _
  case memorySlotReading37 p => exact hs.receiveSlot _ p
  case memorySlotReading38 p => exact hs.receiveSlot _ p
  case memorySlotReading39 p => exact hs.receiveSlot _ p
  case memorySlotReading40 p => exact hs.receiveSlot _ p
  all_goals exact hs

/-! ## Framing -/

protected theorem PortsSafe.feed (bs : List Byte) (hs : PortsSafe s) : PortsSafe (feed bs s) := by
  rcases feed_cases bs s with ⟨_, e⟩ | ⟨_, e⟩ <;> rw [e]
  · exact hs
  · exact PortsSafe.raiseError _ ((portsSafe_setBuf _).2 hs)

protected theorem PortsSafe.nextFrame (hs : PortsSafe s) : PortsSafe (nextFrame s).2 :=
  nextFrame_induction (P := fun s r => PortsSafe s → PortsSafe r.2)
    (noMarker := fun _ _ hs => hs)
    (noEnd := fun _ _ _ _ hs => hs)
    (found := fun _ _ _ _ _ _ hs => hs)
    (failed := fun _ i _ _ _ _ _ ih hs => ih (PortsSafe.raiseError _ ((portsSafe_consume i).2 hs))) s hs

protected theorem PortsSafe.of_drain (hs : PortsSafe s) (ht : drain s = .next t) : PortsSafe t :=
  drain_induction (P := fun s o => PortsSafe s → ∀ t, o = .next t → PortsSafe t)
    (done := fun _ _ hs _ ht => by cases ht; exact hs.nextFrame)
    (ignored := fun _ _ _ _ ih hs => ih hs.nextFrame)
    (ran := fun _ _ _ _ _ _ hx ih hs => ih (hs.nextFrame.of_exec hx))
    (faulted := fun _ _ _ _ _ _ _ _ _ ht => nomatch ht)
    (refused := fun _ _ _ _ _ _ _ _ _ ht => nomatch ht) s hs t ht

/-! ## Host operations and the step -/

protected theorem PortsSafe.of_ingestBytes {bs : List Byte} (hs : PortsSafe s) (ht : ingestBytes bs s = .next t) : PortsSafe t := by
  obtain ⟨u, hu, hret⟩ := andThen_eq_next ht
  cases hret
  exact (portsSafe_returns _).2 ((hs.feed bs).of_drain hu)

protected theorem PortsSafe.of_decodeFrame {f : Frame} (hs : PortsSafe s) (ht : decodeFrame f s = .next t) : PortsSafe t := by
  unfold decodeFrame at ht
  split at ht <;> cases ht
  exact hs.reportDecoding _

/-- RESET makes no new assertion: under `Outputs` it writes both outputs false, whatever the trace left them at; under
`Command` it writes neither (R35). -/
protected theorem PortsSafe.resetOp (cfg : Cfg) (hs : PortsSafe s) : PortsSafe (resetOp cfg s) := by
  obtain ⟨⟨hexcl, _⟩, _⟩ := hs
  refine ⟨?_, by simp [resetOp, State.resetWith]⟩
  show exclusiveThroughout (false, false) (s.trace ++ resetTrace cfg) = true ∧
    (cfg.strategy = .outputs → outputsAfter (false, false) (s.trace ++ resetTrace cfg) = (false, false))
  rw [exclusiveThroughout_append, hexcl, outputsAfter_append]
  have hend := exclusiveThroughout_end hexcl
  cases hst : cfg.strategy with
  | command => simpa [resetTrace, hst] using hend
  | outputs =>
    simp only [resetTrace, hst, exclusiveThroughout_cons, hend]
    exact ⟨rfl, fun _ => rfl⟩

protected theorem PortsSafe.of_runOp {op : HostOp} (hs : PortsSafe s) (ht : runOp op s = .next t) : PortsSafe t := by
  cases op with
  | feed bs => cases ht; exact hs.feed bs
  | nextFrame => cases ht; exact hs.nextFrame
  | encode c => exact hs.of_exec ht
  | decode f => exact hs.of_decodeFrame ht
  | setTarget h => exact hs.of_setTarget ht
  | positionUpdate h => cases ht; exact hs.positionUpdate h
  | tick => cases ht; exact hs.tick
  | ingestBytes bs => exact hs.of_ingestBytes ht
  | requestHeight h => exact hs.of_setTarget ht
  | queryLimits => cases ht; exact hs.emit _
  | queryMemoryAndHeight => cases ht; exact hs.emit _
  | reset cfg => cases ht; exact hs.resetOp cfg

/-- The step lemma: every step keeps the ports safe, from any state in which they are. -/
protected theorem PortsSafe.of_step (hs : PortsSafe s) (ht : step s = .next t) : PortsSafe t := by
  cases hp : s.pending with
  | nil =>
    cases (step_nil s hp).symm.trans ht
    exact hs
  | cons op rest =>
    rw [step_cons s hp] at ht
    exact PortsSafe.of_runOp ((portsSafe_setPending rest).2 hs) ht

/-- Outputs that agree with the strategy and the motion are not both asserted (R26, R33). -/
theorem OutputsAgree.not_both (h : OutputsAgree s) : ¬(s.up = true ∧ s.down = true) := by
  unfold OutputsAgree at h
  split at h
  · simp [h.1]
  · split at h
    · rename_i d _
      obtain ⟨hon, hoff⟩ := h
      cases d
      · exact fun hboth => absurd hboth.2 (by simpa using hoff)
      · exact fun hboth => absurd hboth.1 (by simpa using hoff)
    · simp [h.1]
    · simp [h.1]

/-- Settles O51: a boundary state with a safe trace has safe ports, and a step keeps them safe. -/
theorem outputsNeverBothAsserted : Obligations.OutputsNeverBothAsserted := by
  unfold Obligations.OutputsNeverBothAsserted
  intro s t hinv htr hstep
  exact PortsSafe.of_step ⟨htr, hinv.outputsAgree.not_both⟩ hstep

end Sys2Proof.Machine
end

section
/-! The checksum byte of O4: where it stands in a frame's bytes and over what it is summed, and what a span that validates
says of it. -/

namespace Sys2Proof

/-! ## A frame's bytes -/

/-- The checksummed region of a frame's bytes is its id, its length and its payload (R80, R83). -/
@[simp] theorem checkedRegion_bytes (f : Frame) : checkedRegion f.bytes = f.commandId :: f.length :: f.payload := by
  have hdrop : f.bytes.drop 2 = (f.commandId :: f.length :: f.payload) ++ [f.checksum, f.endMarker] := by
    rw [Frame.bytes, List.drop_left' f.startMarker.bytes_length, List.cons_append, List.cons_append]
  have hlen : f.bytes.length - 4 = (f.commandId :: f.length :: f.payload).length := by
    simp only [Frame.bytes_length, List.length_cons]
    omega
  rw [checkedRegion, hdrop, hlen, List.take_left]

/-- The byte before the last of a frame's bytes is its checksum (R80). -/
@[simp] theorem getD_bytes_checksum (f : Frame) : f.bytes.getD (f.bytes.length - 2) 0#8 = f.checksum := by
  have hsplit : f.bytes =
      (f.startMarker.bytes ++ f.commandId :: f.length :: f.payload) ++ [f.checksum, f.endMarker] := by
    simp [Frame.bytes]
  have hlen : f.bytes.length - 2 = (f.startMarker.bytes ++ f.commandId :: f.length :: f.payload).length := by
    simp only [Frame.bytes_length, List.length_append, List.length_cons, Marker.bytes_length]
    omega
  rw [hlen, hsplit, List.getD_append_right _ _ _ _ le_rfl, Nat.sub_self, List.getD_cons_zero]

/-- Every instruction's frame carries the checksum of its id, length and payload (R83), even where the payload does not
fit the length byte, so it needs no `Instr.wf`. -/
theorem frameOfInstr_checksum (ids : CommandIds) (i : Instr) :
    (frameOfInstr ids i).checksum =
      checksumOf ((frameOfInstr ids i).commandId :: (frameOfInstr ids i).length :: (frameOfInstr ids i).payload) := by
  cases i <;> rfl

/-- The sum of an id and the length 0 is the id. -/
theorem checksumOf_id_zero (cid : Byte) : checksumOf [cid, 0#8] = cid := by
  apply BitVec.eq_of_toNat_eq
  rw [checksumOf_toNat]
  exact Nat.mod_eq_of_lt cid.isLt

/-! ## Spans -/

/-- A span validates exactly when it passes each of R126's four checks. -/
theorem validSpan_eq_ok_iff (span : List Byte) (m : Marker) :
    validSpan span m = .ok ↔
      6 ≤ span.length ∧
      (span.take 2 = m.bytes ∧ span.getD (span.length - 1) 0#8 = endByte) ∧
      span.getD (span.length - 2) 0#8 = checksumOf (checkedRegion span) ∧
      (span.getD 3 0#8).toNat = span.length - 6 := by
  unfold validSpan
  split
  next hshort => exact iff_of_false nofun fun ⟨hlen, _⟩ => absurd hshort (Nat.not_lt.2 hlen)
  next hlong =>
    split
    next hmark => exact iff_of_false nofun fun ⟨_, ⟨hstart, hend⟩, _⟩ => hmark.elim (· hstart) (· hend)
    next hmark =>
      split
      next hsum => exact iff_of_false nofun fun ⟨_, _, h, _⟩ => hsum h
      next hsum =>
        split
        next hcount => exact iff_of_false nofun fun ⟨_, _, _, h⟩ => hcount h
        next hcount =>
          rw [not_or, not_not, not_not] at hmark
          exact iff_of_true rfl ⟨Nat.not_lt.1 hlong, hmark, not_not.1 hsum, not_not.1 hcount⟩

/-- The checksum byte of a span that validates has the value of the region's sum modulo 256 (R83). -/
theorem checksum_toNat_of_validSpan {span : List Byte} {m : Marker} (hok : validSpan span m = .ok) :
    (span.getD (span.length - 2) 0#8).toNat = byteSum (checkedRegion span) % 256 := by
  obtain ⟨-, -, hsum, -⟩ := (validSpan_eq_ok_iff span m).1 hok
  rw [hsum, checksumOf_toNat]

/-- The checksum byte of an encoded instruction has the value of the region's sum modulo 256 (R83). -/
theorem checksum_toNat_encode (ids : CommandIds) (i : Instr) :
    ((encode ids i).getD ((encode ids i).length - 2) 0#8).toNat = byteSum (checkedRegion (encode ids i)) % 256 := by
  rw [encode, getD_bytes_checksum, checkedRegion_bytes, frameOfInstr_checksum, checksumOf_toNat]

/-- Settles O4: validation compares the byte before the last with the region's sum, and the encoder writes that sum there. -/
theorem checksumIsTheSumModulo256 : Obligations.ChecksumIsTheSumModulo256 := by
  unfold Obligations.ChecksumIsTheSumModulo256
  refine ⟨?valid, checksum_toNat_encode, ?mismatch, ?noPayload⟩
  case valid => exact fun _ _ => checksum_toNat_of_validSpan
  case mismatch => exact fun _ _ hne hok => hne (checksum_toNat_of_validSpan hok)
  case noPayload => exact fun _ => checksumOf_id_zero

end Sys2Proof
end

section
/-! The marker search of O19 and the failed candidate of O22: where `findMarker` and `findEnd` stop, and what NEXT_FRAME
does with a candidate at the head of the buffer. -/

namespace Sys2Proof.Machine

/-! ## The marker search -/

/-- An incoming marker stands at index `i`, wholly inside `b` (R122). -/
def MarkerAt (b : List Byte) (i : Nat) : Prop :=
  i + 1 < b.length ∧ b[i]? = some 0xF2#8 ∧ b[i + 1]? = some 0xF2#8

/-- A marker takes two bytes. -/
theorem not_markerAt_of_length_le {b : List Byte} (hb : b.length ≤ 1) (i : Nat) : ¬MarkerAt b i :=
  fun ⟨hlt, _⟩ => absurd hlt (by omega)

@[simp] theorem markerAt_zero (a b : Byte) (rest : List Byte) :
    MarkerAt (a :: b :: rest) 0 ↔ a = 0xF2#8 ∧ b = 0xF2#8 := by
  simp [MarkerAt]

@[simp] theorem markerAt_succ (a : Byte) (b : List Byte) (i : Nat) : MarkerAt (a :: b) (i + 1) ↔ MarkerAt b i := by
  simp [MarkerAt]

/-- The index found is a marker's. -/
theorem markerAt_of_findMarker {b : List Byte} {i : Nat} (h : findMarker b = some i) : MarkerAt b i := by
  obtain ⟨rest, hrest⟩ := findMarker_drop h
  refine ⟨findMarker_lt h, ?_, ?_⟩
  · rw [← Nat.add_zero i, ← List.getElem?_drop, hrest, List.getElem?_cons_zero]
  · rw [← List.getElem?_drop, hrest, List.getElem?_cons_succ, List.getElem?_cons_zero]

/-- The search passes no marker over: none stands before the index found, and none at all when nothing is found. -/
theorem not_markerAt_of_findMarker : ∀ {b : List Byte} {j : Nat}, (∀ i, findMarker b = some i → j < i) → ¬MarkerAt b j
  | [], j, _ => not_markerAt_of_length_le (by simp) j
  | [_], j, _ => not_markerAt_of_length_le (by simp) j
  | a :: b :: rest, j, h => by
    rw [findMarker_cons_cons] at h
    split at h
    next => exact absurd (h 0 rfl) (Nat.not_lt_zero j)
    next hab =>
      cases j with
      | zero => rwa [markerAt_zero]
      | succ j =>
        rw [markerAt_succ]
        exact not_markerAt_of_findMarker fun i hi => Nat.lt_of_succ_lt_succ (h (i + 1) (by rw [hi]; rfl))

theorem findMarker_eq_none_iff (b : List Byte) : findMarker b = none ↔ ∀ i, ¬MarkerAt b i := by
  constructor
  · intro hnone i
    exact not_markerAt_of_findMarker fun k hk => nomatch hnone.symm.trans hk
  · intro hno
    exact Option.eq_none_iff_forall_ne_some.2 fun i hi => hno i (markerAt_of_findMarker hi)

theorem findMarker_eq_some_iff (b : List Byte) (i : Nat) :
    findMarker b = some i ↔ MarkerAt b i ∧ ∀ j, j < i → ¬MarkerAt b j := by
  constructor
  · intro hi
    refine ⟨markerAt_of_findMarker hi, fun j hj => not_markerAt_of_findMarker fun k hk => ?_⟩
    cases hi.symm.trans hk
    exact hj
  · rintro ⟨hat, hleast⟩
    cases hk : findMarker b with
    | none => exact absurd hat ((findMarker_eq_none_iff b).1 hk i)
    | some k =>
      have hik : i ≤ k := not_lt.1 fun hlt => hleast k hlt (markerAt_of_findMarker hk)
      have hki : k ≤ i := not_lt.1 fun hlt =>
        not_markerAt_of_findMarker (fun m hm => by cases hk.symm.trans hm; exact hlt) hat
      rw [le_antisymm hik hki]

/-- Settles O19: the search stops at a marker and passes none over. -/
theorem markerSearchFindsTheEarliest : Obligations.MarkerSearchFindsTheEarliest := by
  unfold Obligations.MarkerSearchFindsTheEarliest
  exact fun b => ⟨findMarker_eq_some_iff b, findMarker_eq_none_iff b⟩

/-! ## A candidate at the head of the buffer -/

/-- The marker a span begins with is the one found, whatever follows the span. -/
theorem findMarker_append_of_take {span : List Byte} (rest : List Byte) (h : span.take 2 = [0xF2#8, 0xF2#8]) :
    findMarker (span ++ rest) = some 0 := by
  rw [← List.take_append_drop 2 span, h]
  rfl

/-- More bytes at the end do not move the end byte found. -/
theorem findEndByte_append : ∀ {b : List Byte} {j : Nat} (rest : List Byte), findEndByte b = some j →
    findEndByte (b ++ rest) = some j
  | [], _, _, h => by cases h
  | a :: b, j, rest, h => by
    rw [List.cons_append]
    unfold findEndByte at h ⊢
    split
    next ha => rwa [if_pos ha] at h
    next ha =>
      rw [if_neg ha] at h
      obtain ⟨k, hk, rfl⟩ := Option.map_eq_some_iff.1 h
      rw [findEndByte_append rest hk, Option.map_some]

/-- More bytes at the end do not move the terminator found: R125 looks at the first one. -/
theorem findEnd_append {b : List Byte} {e : Nat} (rest : List Byte) (h : findEnd b = some e) :
    findEnd (b ++ rest) = some e := by
  obtain ⟨htwo, hlt⟩ := findEnd_bounds h
  obtain ⟨j, hj, rfl⟩ := Option.map_eq_some_iff.1 h
  rw [findEnd, List.drop_append_of_le_length (by omega), findEndByte_append rest hj, Option.map_some]

/-- NEXT_FRAME with a candidate span at the head of the buffer that fails: it goes on after one FrameError (R128). -/
theorem nextFrame_of_failed_candidate {s : State} {span rest : List Byte} {why : SpanFault} (hbuf : s.buf = span ++ rest)
    (hmark : span.take 2 = [0xF2#8, 0xF2#8]) (hend : findEnd span = some (span.length - 1))
    (hbad : validSpan span .incoming = .bad why) : nextFrame s = nextFrame (raiseError (.frameError why) s) := by
  have hmarker : findMarker s.buf = some 0 := by rw [hbuf, findMarker_append_of_take rest hmark]
  have hfirst : findEnd s.buf = some (span.length - 1) := by rw [hbuf, findEnd_append rest hend]
  have hspan : s.buf.take (span.length - 1 + 1) = span := by
    have hlt := (findEnd_bounds hend).2
    rw [hbuf, Nat.sub_add_cancel (by omega), List.take_left]
  rw [nextFrame_eq s, hmarker]
  simp only [List.drop_zero, hfirst, hspan, hbad, State.consume_zero]

/-- Settles O22: the span that fails is the candidate NEXT_FRAME looks at, and its FrameError drops one byte. -/
theorem failedCandidateLosesOneByte : Obligations.FailedCandidateLosesOneByte := by
  unfold Obligations.FailedCandidateLosesOneByte
  exact fun _ _ _ _ hbuf hmark hend hbad => nextFrame_of_failed_candidate hbuf hmark hend hbad

end Sys2Proof.Machine
end

section
/-! The unrecognised frames of O17 (R168): they give DECODE nothing and select no row of R89, so DECODE answers no event and
the drain loop goes on. -/

namespace Sys2Proof.Machine

variable {f : Frame} {s : State}

/-- A Frame of R168: its id is no telemetry id, or it is HeightReading's or LimitReading's with another length than
theirs. -/
def Unrecognised (f : Frame) : Prop :=
  (f.commandId ≠ 1#8 ∧ f.commandId ≠ 7#8 ∧ f.commandId ≠ 37#8 ∧ f.commandId ≠ 38#8 ∧ f.commandId ≠ 39#8 ∧
      f.commandId ≠ 40#8) ∨
    (f.commandId = 1#8 ∧ f.length ≠ 3#8) ∨ (f.commandId = 7#8 ∧ f.length ≠ 4#8)

/-- The length byte of a valid Frame counts its payload (R84). -/
theorem length_toNat_of_wf (hwf : f.wf = true) : f.length.toNat = f.payload.length := by
  simp only [Frame.wf, Bool.and_eq_true, decide_eq_true_eq] at hwf
  obtain ⟨⟨hlen, -⟩, -⟩ := hwf
  exact hlen

/-- A valid Frame with `n` payload bytes has the length byte `n`. -/
theorem length_eq_of_payload_length {n : Nat} (hwf : f.wf = true) (hp : f.payload.length = n) :
    f.length = BitVec.ofNat 8 n := by
  rw [← hp, ← length_toNat_of_wf hwf, BitVec.ofNat_toNat, BitVec.setWidth_eq]

/-! ## What an unrecognised Frame selects -/

/-- DECODE's mapping gives nothing (R160's last line). -/
theorem telemetryOf_of_unrecognised (h : Unrecognised f) : telemetryOf f = .nothing := by
  obtain ⟨h1, h7, h37, h38, h39, h40⟩ | ⟨hid, hlen⟩ | ⟨hid, hlen⟩ := h
  · simp [telemetryOf, isSlotId, h1, h7, h37, h38, h39, h40]
  · simp [telemetryOf, isSlotId, hid, hlen]
  · simp [telemetryOf, isSlotId, hid, hlen]

/-- HeightReading's row takes a payload of three bytes, which gives a valid Frame the length 3. -/
theorem instrOfIncoming_of_id_one (hwf : f.wf = true) (hid : f.commandId = 1#8) (hlen : f.length ≠ 3#8) :
    instrOfIncoming f = none := by
  simp only [instrOfIncoming, hid, if_true]
  split
  next p0 p1 p2 hp => exact absurd (length_eq_of_payload_length hwf (by rw [hp]; rfl)) hlen
  next => rfl

/-- LimitReading's row takes a payload of four bytes, which gives a valid Frame the length 4. -/
theorem instrOfIncoming_of_id_seven (hwf : f.wf = true) (hid : f.commandId = 7#8) (hlen : f.length ≠ 4#8) :
    instrOfIncoming f = none := by
  simp only [instrOfIncoming, hid, BitVec.reduceEq, if_false, if_true]
  split
  next p0 p1 p2 p3 hp => exact absurd (length_eq_of_payload_length hwf (by rw [hp]; rfl)) hlen
  next => rfl

/-- A valid unrecognised Frame selects no row (R89's last row). -/
theorem instrOfIncoming_of_unrecognised (hwf : f.wf = true) (h : Unrecognised f) : instrOfIncoming f = none := by
  obtain ⟨h1, h7, h37, h38, h39, h40⟩ | ⟨hid, hlen⟩ | ⟨hid, hlen⟩ := h
  · simp [instrOfIncoming, h1, h7, h37, h38, h39, h40]
  · exact instrOfIncoming_of_id_one hwf hid hlen
  · exact instrOfIncoming_of_id_seven hwf hid hlen

/-! ## What the operations do with it -/

/-- DECODE of a valid Frame that gives nothing writes its answer and no other field. -/
theorem decodeFrame_of_nothing (hwf : f.wf = true) (hn : telemetryOf f = .nothing) :
    decodeFrame f s = .next { s with result := .event none } := by
  rw [decodeFrame, if_pos hwf, hn]
  rfl

/-- The drain loop passes over a Frame that selects no row. -/
theorem drain_of_no_row (hf : (nextFrame s).1 = some f) (hi : instrOfIncoming f = none) :
    drain s = drain (nextFrame s).2 := by
  rw [drain_eq, hf]
  simp only [hi]

/-- Settles O17: such a Frame gives DECODE nothing and selects no row. -/
theorem unrecognisedFramesGiveNothing : Obligations.UnrecognisedFramesGiveNothing := by
  unfold Obligations.UnrecognisedFramesGiveNothing
  intro f hwf (h : Unrecognised f)
  exact ⟨fun _ => decodeFrame_of_nothing hwf (telemetryOf_of_unrecognised h),
    fun _ hf => drain_of_no_row hf (instrOfIncoming_of_unrecognised hwf h)⟩

end Sys2Proof.Machine
end

section
/-! The two queries of O46 (R237, R238): each takes the pending operation, emits its Command and answers nothing. -/

namespace Sys2Proof.Machine

/-- The state a query leaves: the trace grows by the one Emit, and beside it only the pending operations and the result
are written. -/
theorem returns_nothing_emit_setPending (c : Command) (rest : List HostOp) (s : State) :
    (emit c (s.setPending rest)).returns .nothing =
      { s with
        pending := rest, trace := s.trace ++ [.emit c (encodeCommand s.cfg.ids c)], result := .nothing } := rfl

/-- A step with QUERY_LIMITS pending emits its Command, under either strategy (R237). -/
theorem step_queryLimits {s : State} {rest : List HostOp} (h : s.pending = .queryLimits :: rest) :
    step s = .next ((emit .queryLimits (s.setPending rest)).returns .nothing) := step_cons s h

/-- A step with QUERY_MEMORY_AND_HEIGHT pending emits its Command, under either strategy (R238). -/
theorem step_queryMemoryAndHeight {s : State} {rest : List HostOp} (h : s.pending = .queryMemoryAndHeight :: rest) :
    step s = .next ((emit .queryMemoryAndHeight (s.setPending rest)).returns .nothing) := step_cons s h

/-- Settles O46: each query's step is its Emit, and the Emit writes the trace alone. -/
theorem queriesEmitOneFrame : Obligations.QueriesEmitOneFrame := by
  unfold Obligations.QueriesEmitOneFrame
  intro s rest
  constructor
  · rw [step_queryLimits rfl, returns_nothing_emit_setPending]
  · rw [step_queryMemoryAndHeight rfl, returns_nothing_emit_setPending]

end Sys2Proof.Machine
end

section
/-! Bytes and frames, both ways (O1, O2, O3, O5, O6, O7): a span validates exactly when it is the bytes of a valid
Frame, which is then the one read back, so the decoder answers what that Frame selects. -/

namespace Sys2Proof

variable {f : Frame} {bs : List Byte} {m : Marker} {ids : CommandIds} {i : Instr}

/-! ## The bytes of a Frame -/

/-- The Frame invariant, its three clauses apart (R28). -/
theorem Frame.wf_iff (f : Frame) :
    f.wf = true ↔ f.length.toNat = f.payload.length ∧
      f.checksum = checksumOf (f.commandId :: f.length :: f.payload) ∧ f.endMarker = endByte := by
  simp [Frame.wf, and_assoc]

@[simp] theorem take_two_bytes (f : Frame) : f.bytes.take 2 = f.startMarker.bytes :=
  List.take_left' f.startMarker.bytes_length

@[simp] theorem drop_two_bytes (f : Frame) :
    f.bytes.drop 2 = f.commandId :: f.length :: (f.payload ++ [f.checksum, f.endMarker]) :=
  List.drop_left' f.startMarker.bytes_length

@[simp] theorem drop_four_bytes (f : Frame) : f.bytes.drop 4 = f.payload ++ [f.checksum, f.endMarker] := by
  rw [← List.drop_drop (i := 2) (j := 2), drop_two_bytes]
  rfl

@[simp] theorem getD_two_bytes (f : Frame) : f.bytes.getD 2 0#8 = f.commandId := by
  cases f with | mk m => cases m <;> rfl

@[simp] theorem getD_three_bytes (f : Frame) : f.bytes.getD 3 0#8 = f.length := by
  cases f with | mk m => cases m <;> rfl

/-- The last of a frame's bytes is its end marker (R80). -/
@[simp] theorem getD_bytes_end (f : Frame) : f.bytes.getD (f.bytes.length - 1) 0#8 = f.endMarker := by
  have hsplit : f.bytes =
      (f.startMarker.bytes ++ f.commandId :: f.length :: (f.payload ++ [f.checksum])) ++ [f.endMarker] := by
    simp [Frame.bytes]
  rw [hsplit, List.length_append, List.length_singleton, Nat.add_sub_cancel, List.getD_append_right _ _ _ _ le_rfl,
    Nat.sub_self, List.getD_cons_zero]

/-- Six bytes or more that start with a marker are the bytes of a record, valid or not. -/
theorem exists_frame_of_take (hlen : 6 ≤ bs.length) (hmark : bs.take 2 = m.bytes) :
    ∃ f : Frame, f.startMarker = m ∧ f.bytes = bs := by
  obtain ⟨a, b, c, d, rest, rfl⟩ : ∃ a b c d rest, bs = a :: b :: c :: d :: rest := by
    match bs, hlen with
    | a :: b :: c :: d :: rest, _ => exact ⟨a, b, c, d, rest, rfl⟩
  simp only [List.length_cons] at hlen
  have htail : rest = rest.take (rest.length - 2) ++ rest.drop (rest.length - 2) := (List.take_append_drop _ _).symm
  obtain ⟨x, y, hxy⟩ : ∃ x y, rest.drop (rest.length - 2) = [x, y] :=
    List.length_eq_two.1 (by rw [List.length_drop]; omega)
  refine ⟨⟨m, c, d, rest.take (rest.length - 2), x, y⟩, rfl, ?_⟩
  show m.bytes ++ c :: d :: (rest.take (rest.length - 2) ++ [x, y]) = _
  rw [← hxy, ← htail, ← hmark]
  rfl

/-! ## Validation and reading back (R126, R121) -/

/-- The bytes of a record validate exactly when the record keeps the Frame invariant. -/
theorem validSpan_bytes_iff (f : Frame) : validSpan f.bytes f.startMarker = .ok ↔ f.wf = true := by
  rw [validSpan_eq_ok_iff, Frame.wf_iff, take_two_bytes, getD_bytes_end, getD_bytes_checksum, checkedRegion_bytes,
    getD_three_bytes, Frame.bytes_length, Nat.add_sub_cancel_left]
  constructor
  · rintro ⟨-, ⟨-, hend⟩, hsum, hcount⟩
    exact ⟨hcount, hsum, hend⟩
  · rintro ⟨hcount, hsum, hend⟩
    exact ⟨Nat.le_add_right _ _, ⟨rfl, hend⟩, hsum, hcount⟩

/-- A valid Frame is read back from its bytes. -/
theorem readFrame_bytes (hwf : f.wf = true) : readFrame f.startMarker f.bytes = f := by
  obtain ⟨-, -, hend⟩ := (Frame.wf_iff f).1 hwf
  rw [readFrame, getD_two_bytes, getD_three_bytes, getD_bytes_checksum, drop_four_bytes, Frame.bytes_length,
    Nat.add_sub_cancel_left, List.take_left, ← hend]

/-- A span that validates is the bytes of a valid Frame with that marker. -/
theorem exists_frame_of_validSpan (hok : validSpan bs m = .ok) :
    ∃ f : Frame, f.wf = true ∧ f.startMarker = m ∧ f.bytes = bs := by
  obtain ⟨hlen, ⟨hmark, -⟩, -⟩ := (validSpan_eq_ok_iff bs m).1 hok
  obtain ⟨f, rfl, rfl⟩ := exists_frame_of_take hlen hmark
  exact ⟨f, (validSpan_bytes_iff f).1 hok, rfl, rfl⟩

@[simp] theorem markerOf_bytes (f : Frame) : markerOf f.bytes = f.startMarker := by
  rw [markerOf, take_two_bytes]
  cases f.startMarker <;> rfl

/-- The decoder answers an instruction exactly for the bytes of a valid Frame that selects it. -/
theorem decode_eq_instr_iff :
    decode ids bs = .instr i ↔ ∃ f : Frame, f.wf = true ∧ f.bytes = bs ∧ instrOfFrame ids f = some i := by
  constructor
  · intro h
    unfold decode at h
    split at h
    next => cases h
    next hok =>
      obtain ⟨f, hwf, hm, rfl⟩ := exists_frame_of_validSpan hok
      rw [← hm, readFrame_bytes hwf] at h
      cases hi : instrOfFrame ids f with
      | none => rw [hi] at h; cases h
      | some j =>
        rw [hi] at h
        cases h
        exact ⟨f, hwf, rfl, hi⟩
  · rintro ⟨f, hwf, rfl, hi⟩
    simp only [decode, markerOf_bytes, (validSpan_bytes_iff f).2 hwf, readFrame_bytes hwf, hi]

/-! ## Frames and instructions -/

/-- A well-formed instruction's frame keeps the Frame invariant. -/
theorem frameOfInstr_wf (hi : i.wf = true) : (frameOfInstr ids i).wf = true := by
  cases i with
  | moveUp => exact (Laws.FrameForm.moveUp ids hi).1
  | moveDown => exact (Laws.FrameForm.moveDown ids hi).1
  | stop => exact (Laws.FrameForm.stop ids hi).1
  | goToHeight h => exact (Laws.FrameForm.goToHeight h ids hi).1
  | queryMemoryAndHeight => exact (Laws.FrameForm.queryMemoryAndHeight ids hi).1
  | queryLimits => exact (Laws.FrameForm.queryLimits ids hi).1
  | heightReading h extra => exact (Laws.FrameForm.heightReading h extra ids hi).1
  | memorySlotReading37 p => exact (Laws.FrameForm.memorySlotReading37 p ids hi).1
  | memorySlotReading38 p => exact (Laws.FrameForm.memorySlotReading38 p ids hi).1
  | memorySlotReading39 p => exact (Laws.FrameForm.memorySlotReading39 p ids hi).1
  | memorySlotReading40 p => exact (Laws.FrameForm.memorySlotReading40 p ids hi).1
  | limitReading mx mn => exact (Laws.FrameForm.limitReading mx mn ids hi).1

/-- With distinct ids an instruction's frame selects that instruction: no earlier row of R88 or R89 takes it. -/
theorem instrOfFrame_frameOfInstr (hids : ids.distinct = true) (i : Instr) :
    instrOfFrame ids (frameOfInstr ids i) = some i := by
  simp only [CommandIds.distinct, List.nodup_cons, List.mem_cons, List.not_mem_nil, or_false, not_or,
    decide_eq_true_eq] at hids
  obtain ⟨⟨h12, h13, h14, h15⟩, ⟨h23, h24, h25⟩, ⟨h34, h35⟩, h45, -⟩ := hids
  cases i <;> simp [instrOfFrame, frameOfInstr, frameWith, instrOfOutgoing, instrOfIncoming, Ne.symm, *]

/-- Settles O1: the decoder reads the instruction's own frame, which selects it. -/
theorem decodeEncodeRoundTrip : Obligations.DecodeEncodeRoundTrip := by
  unfold Obligations.DecodeEncodeRoundTrip
  intro ids i hids hi
  exact decode_eq_instr_iff.2 ⟨frameOfInstr ids i, frameOfInstr_wf hi, rfl, instrOfFrame_frameOfInstr hids i⟩

/-- A valid Frame is determined by its marker, id and payload. -/
theorem frameWith_eq_of_wf (hwf : f.wf = true) : frameWith f.startMarker f.commandId f.payload = f := by
  obtain ⟨hlen, hsum, hend⟩ := (Frame.wf_iff f).1 hwf
  have hlen' : BitVec.ofNat 8 f.payload.length = f.length := by rw [← hlen, BitVec.ofNat_toNat, BitVec.setWidth_eq]
  rw [frameWith, hlen', ← hsum, ← hend]

/-- The payload of a valid Frame fits its length byte. -/
theorem payload_length_le (hwf : f.wf = true) : f.payload.length ≤ 255 := by
  obtain ⟨hlen, -, -⟩ := (Frame.wf_iff f).1 hwf
  have := f.length.isLt
  omega

/-- The instruction an incoming Frame selects carries its id and payload (R89). -/
theorem frameOfInstr_of_instrOfIncoming (hsel : instrOfIncoming f = some i) :
    frameOfInstr ids i = frameWith .incoming f.commandId f.payload ∧ (f.payload.length ≤ 255 → i.wf = true) := by
  unfold instrOfIncoming at hsel
  split_ifs at hsel with h1 h37 h38 h39 h40 h7
  · split at hsel
    next p0 p1 p2 hp => cases hsel; simp [frameOfInstr, h1, hp, Instr.wf]
    next => cases hsel
  · cases hsel; simp [frameOfInstr, h37, Instr.wf]
  · cases hsel; simp [frameOfInstr, h38, Instr.wf]
  · cases hsel; simp [frameOfInstr, h39, Instr.wf]
  · cases hsel; simp [frameOfInstr, h40, Instr.wf]
  · split at hsel
    next p0 p1 p2 p3 hp => cases hsel; simp [frameOfInstr, h7, hp, Instr.wf]
    next => cases hsel

/-- The instruction an outgoing Frame selects carries its id and payload (R88). -/
theorem frameOfInstr_of_instrOfOutgoing (hsel : instrOfOutgoing ids f = some i) :
    frameOfInstr ids i = frameWith .outgoing f.commandId f.payload ∧ i.wf = true := by
  unfold instrOfOutgoing at hsel
  split at hsel
  next hp => split_ifs at hsel <;> cases hsel <;> simp [frameOfInstr, Instr.wf, *]
  next hi lo hp =>
    split_ifs at hsel with h
    cases hsel
    simp [frameOfInstr, h, hp, Instr.wf]
  next => cases hsel

/-- A valid Frame that selects an instruction is that instruction's frame. -/
theorem frameOfInstr_of_instrOfFrame (hwf : f.wf = true) (hsel : instrOfFrame ids f = some i) :
    i.wf = true ∧ frameOfInstr ids i = f := by
  have hframe := frameWith_eq_of_wf hwf
  unfold instrOfFrame at hsel
  split at hsel
  next hm =>
    obtain ⟨heq, hi⟩ := frameOfInstr_of_instrOfOutgoing hsel
    exact ⟨hi, by rw [heq, ← hm, hframe]⟩
  next hm =>
    obtain ⟨heq, hi⟩ := frameOfInstr_of_instrOfIncoming (ids := ids) hsel
    exact ⟨hi (payload_length_le hwf), by rw [heq, ← hm, hframe]⟩

/-- Settles O2: the Frame the bytes are is the frame of the instruction it selects. -/
theorem decodedBytesAreTheEncoding : Obligations.DecodedBytesAreTheEncoding := by
  unfold Obligations.DecodedBytesAreTheEncoding
  intro ids bs i h
  obtain ⟨f, hwf, rfl, hsel⟩ := decode_eq_instr_iff.1 h
  obtain ⟨hi, rfl⟩ := frameOfInstr_of_instrOfFrame hwf hsel
  exact ⟨hi, rfl⟩

/-- Settles O3: the decoder evaluates on the four frames. -/
theorem writtenOutFramesDecode : Obligations.WrittenOutFramesDecode := by
  unfold Obligations.WrittenOutFramesDecode
  decide

/-! ## The table of checks (R126) -/

/-- Settles O5: each verdict is given under its own condition, and the conditions exclude one another. -/
theorem spanChecksInOrder : Obligations.SpanChecksInOrder := by
  unfold Obligations.SpanChecksInOrder
  intro span m
  dsimp only
  have hsum : (span.getD (span.length - 2) 0#8).toNat = byteSum ((span.drop 2).take (span.length - 4)) % 256 ↔
      span.getD (span.length - 2) 0#8 = checksumOf (checkedRegion span) := by
    rw [← checksumOf_toNat, BitVec.toNat_inj, checkedRegion]
  have hlong : 6 ≤ span.length ↔ ¬span.length < 6 := Nat.not_lt.symm
  have hend : (0x7E#8 : Byte) = endByte := rfl
  rw [hsum, hlong, hend]
  unfold validSpan
  -- one branch for each verdict: its own condition holds there, and the four others fail
  split_ifs <;> simp only [reduceCtorEq, SpanVerdict.bad.injEq, false_iff, true_iff, ne_eq, not_or, not_not] at *
  all_goals tauto

/-! ## ENCODE (R130) -/

theorem frameOfInstr_toInstr (ids : CommandIds) (c : Command) :
    frameOfInstr ids c.toInstr = frameWith .outgoing (c.id ids) c.payload := by
  cases c <;> rfl

/-- ENCODE writes the bytes of the Command's frame. -/
theorem encodeCommand_eq_bytes (ids : CommandIds) (c : Command) :
    encodeCommand ids c = (frameWith .outgoing (c.id ids) c.payload).bytes := by
  have hsum : BitVec.ofNat 8 ((c.id ids).toNat + c.payload.length + byteSum c.payload) =
      checksumOf (c.id ids :: BitVec.ofNat 8 c.payload.length :: c.payload) := by
    have hlen : c.payload.length % 256 = c.payload.length := by cases c <;> rfl
    rw [checksumOf, byteSum_cons, byteSum_cons, BitVec.toNat_ofNat, hlen, Nat.add_assoc]
  rw [encodeCommand, hsum]
  simp [Frame.bytes, frameWith, Marker.bytes, endByte]

/-- A Command's frame keeps the Frame invariant. -/
theorem commandFrame_wf (m : Marker) (cid : Byte) (c : Command) : (frameWith m cid c.payload).wf = true :=
  Laws.FrameForm.frameWith_wf _ _ _ (by cases c <;> simp [Command.payload])

/-- ENCODE's bytes validate as an outgoing frame. -/
theorem validSpan_encodeCommand (ids : CommandIds) (c : Command) :
    validSpan (encodeCommand ids c) .outgoing = .ok := by
  rw [encodeCommand_eq_bytes]
  exact (validSpan_bytes_iff _).2 (commandFrame_wf .outgoing _ c)

theorem readFrame_encodeCommand (ids : CommandIds) (c : Command) :
    readFrame .outgoing (encodeCommand ids c) = frameWith .outgoing (c.id ids) c.payload := by
  rw [encodeCommand_eq_bytes]
  exact readFrame_bytes (commandFrame_wf .outgoing _ c)

/-- Settles O6: ENCODE is the bytes of a valid Frame with the Command's id and payload. -/
theorem encodedCommandIsAValidFrame : Obligations.EncodedCommandIsAValidFrame := by
  unfold Obligations.EncodedCommandIsAValidFrame
  intro ids c
  refine ⟨?_, validSpan_encodeCommand ids c, ?_, ?_⟩
  · rw [encodeCommand_eq_bytes, encode, frameOfInstr_toInstr]
  · rw [readFrame_encodeCommand]
    rfl
  · rw [readFrame_encodeCommand]
    rfl

/-- Settles O7: the frame read back is the Command's own, and the two bytes joined are the height. -/
theorem goToHeightRoundTrip : Obligations.GoToHeightRoundTrip := by
  unfold Obligations.GoToHeightRoundTrip
  intro ids h
  refine ⟨frameWith .outgoing Config.goToHeightId [highByte h, lowByte h], ?_, rfl, ?_⟩
  · rw [frameOfSpan, validSpan_encodeCommand, readFrame_encodeCommand]
    rfl
  · show (highByte h).toNat * 256 + (lowByte h).toNat = h.toNat
    rw [← heightOf_toNat, heightOf_highByte_lowByte]

end Sys2Proof
end

section
/-! MotionController and the errors as whole states (O31 to O42): what each action sequence leaves is one record, so
each operation's next state is that record in the case that applies. -/

namespace Sys2Proof.Machine

variable {s : State} {c h g : Height} {d : Direction}

/-! ## The comparator -/

/-- Settles O31: ten times a difference is at most `8 * UNIT_SCALE` exactly when the difference is at most its tenth. -/
theorem bandIsClosedAndSymmetric : Obligations.BandIsClosedAndSymmetric := by
  unfold Obligations.BandIsClosedAndSymmetric
  intro cfg c t
  refine ⟨?width, ?symmetric, ?unit⟩
  case width =>
    rw [inBand_iff]
    omega
  case symmetric => rw [inBand, inBand, absDiff, absDiff, max_comm, min_comm]
  case unit =>
    intro hscale
    rw [inBand_iff, ← BitVec.toNat_inj]
    omega

/-- Settles O32: with both limits known the range check reads them, and with one unknown the safety range. -/
theorem rangeIsLimitsElseSafety : Obligations.RangeIsLimitsElseSafety := by
  unfold Obligations.RangeIsLimitsElseSafety
  intro s h
  constructor
  · intro mx mn hmx hmn
    simp [inRange, hmx, hmn]
  · rintro (hmx | hmn)
    · simp [inRange, hmx]
    · cases hmx : s.maxHeight <;> simp [inRange, hmx, hmn]

/-! ## The action sequences as whole states -/

/-- `drive(d)` writes the outputs of its strategy and its actions (R188). -/
theorem drive_eq (d : Direction) (s : State) :
    drive d s = { s with
      up := (outputsDriving s d).1, down := (outputsDriving s d).2, trace := s.trace ++ driveActions s.cfg d } := by
  unfold drive outputsDriving driveActions
  cases s.cfg.strategy with
  | command => rfl
  | outputs => cases d <;> simp [setOutput, State.act, State.putOutput]

/-- Driving under `Command` writes the trace alone. -/
theorem drive_of_command (hst : s.cfg.strategy = .command) :
    drive d s = { s with trace := s.trace ++ driveActions s.cfg d } := by
  rw [drive_eq]
  simp [outputsDriving, hst]

/-- `stop_seq()` ends in `Idle` with the counter at 0 (R189). -/
theorem stopSeq_eq (s : State) :
    stopSeq s = { s with
      motion := .idle, stateTicks := 0, up := (outputsStopped s).1, down := (outputsStopped s).2,
      trace := s.trace ++ stopActions s.cfg } := by
  simp only [stopSeq, outputsStopped, stopActions, enter]
  cases s.cfg.strategy <;> simp [setOutput, emit, State.act, State.putOutput, State.setMotion]

/-- `reverse(d0, d)` gives the old direction up, enters the new seek and drives (R190). -/
theorem reverse_eq (d : Direction) (s : State) :
    reverse d s = { s with
      motion := .seeking d, stateTicks := 0, up := (outputsDriving s d).1, down := (outputsDriving s d).2,
      trace := s.trace ++ reverseActions s.cfg d } := by
  simp only [reverse, drive_eq, reverseActions, outputsDriving, enter]
  cases hst : s.cfg.strategy <;> simp [hst, emit, State.act, State.setMotion]

/-- Entering a seek and driving, from any state (R186). -/
theorem drive_enter_eq (d : Direction) (s : State) :
    drive d (enter (.seeking d) s) = { s with
      motion := .seeking d, stateTicks := 0, up := (outputsDriving s d).1, down := (outputsDriving s d).2,
      trace := s.trace ++ .enter (.seeking d) :: driveActions s.cfg d } := by
  rw [drive_eq]
  simp [enter, State.act, State.setMotion, outputsDriving]

/-! ## SET_TARGET (R186) -/

theorem setTarget_of_not_inRange (hr : inRange s h = false) :
    setTarget h s = .next ((raiseError (.rangeError h) s).returns (.accepted false)) := by
  simp [setTarget, hr]

theorem setTarget_of_no_height (hr : inRange s h = true) (hc : s.currentHeight = none) :
    setTarget h s = .next ((raiseError (.noPosition h) s).returns (.accepted false)) := by
  simp [setTarget, hr, hc]

/-- An acceptable target is recorded and sought. -/
theorem setTarget_of_seekTo {u : State} (hr : inRange s h = true) (hc : s.currentHeight = some c)
    (hu : seekTo c h (s.setTargetHeight (some h)) = .next u) : setTarget h s = .next (u.returns (.accepted true)) := by
  simp [setTarget, hr, hc, hu]

theorem seekTo_idle_inBand (hm : s.motion = .idle) (hb : inBand s.cfg c h = true) : seekTo c h s = .next s := by
  simp [seekTo, hm, hb]

theorem seekTo_idle_outOfBand (hm : s.motion = .idle) (hb : inBand s.cfg c h = false) :
    seekTo c h s = .next (drive (dir c h) (enter (.seeking (dir c h)) s)) := by
  simp [seekTo, hm, hb]

theorem seekTo_seeking_inBand (hm : s.motion = .seeking d) (hb : inBand s.cfg c h = true) :
    seekTo c h s = .next (stopSeq s) := by
  simp [seekTo, hm, hb]

theorem seekTo_sameSide (hm : s.motion = .seeking d) (hb : inBand s.cfg c h = false) (hd : dir c h = d) :
    seekTo c h s = .next s := by
  simp [seekTo, hm, hb, hd]

theorem seekTo_otherSide (hm : s.motion = .seeking d) (hb : inBand s.cfg c h = false) (hd : dir c h ≠ d) :
    seekTo c h s = .next (reverse (dir c h) s) := by
  simp [seekTo, hm, hb, hd]

/-- Settles O33: either rejection is its log entry and the answer `false`. -/
theorem rejectedTargetChangesNothing : Obligations.RejectedTargetChangesNothing := by
  unfold Obligations.RejectedTargetChangesNothing
  intro s h
  exact ⟨setTarget_of_not_inRange, setTarget_of_no_height⟩

/-- Settles O34: from `Idle` an accepted target is in band, or its seek is entered and driven. -/
theorem acceptedTargetFromIdle : Obligations.AcceptedTargetFromIdle := by
  unfold Obligations.AcceptedTargetFromIdle
  intro s c h hm hc hr
  split
  next hb => exact setTarget_of_seekTo hr hc (seekTo_idle_inBand hm hb)
  next hb =>
    rw [setTarget_of_seekTo hr hc (seekTo_idle_outOfBand hm (Bool.not_eq_true _ ▸ hb)), drive_enter_eq]
    rfl

/-- Settles O35: during a seek an accepted target is in band, on the same side, or on the other side. -/
theorem acceptedTargetWhileSeeking : Obligations.AcceptedTargetWhileSeeking := by
  unfold Obligations.AcceptedTargetWhileSeeking
  intro s d0 c h hm hc hr
  change _ = Host.Outcome.next (if _ then _ else if dir c h = d0 then _ else _)
  split
  next hb =>
    rw [setTarget_of_seekTo hr hc (seekTo_seeking_inBand hm hb), stopSeq_eq]
    rfl
  next hb =>
    have hb : inBand s.cfg c h = false := Bool.not_eq_true _ ▸ hb
    split
    next hd => exact setTarget_of_seekTo hr hc (seekTo_sameSide hm hb hd)
    next hd =>
      rw [setTarget_of_seekTo hr hc (seekTo_otherSide hm hb hd), reverse_eq]
      rfl

/-- Settles O41: the current height is in band of itself, so the target stops the seek. -/
theorem targetingTheCurrentHeightStops : Obligations.TargetingTheCurrentHeightStops := by
  unfold Obligations.TargetingTheCurrentHeightStops
  intro s d c hm hc hr
  refine ⟨_, acceptedTargetWhileSeeking s d c c hm hc hr, ?_⟩
  simp +contextual [outputsStopped]

/-- Settles O40: half a unit is in band, so from `Idle` only the target is recorded. -/
theorem halfAUnitAwayStartsNothing : Obligations.HalfAUnitAwayStartsNothing := by
  unfold Obligations.HalfAUnitAwayStartsNothing
  intro s c h k hscale hh hm hc hr
  have hband : inBand s.cfg c h = true := by
    rw [inBand_iff]
    omega
  rw [acceptedTargetFromIdle s c h hm hc hr, if_pos hband]

/-! ## Evaluation (R193) -/

/-- Evaluation of a seek with both heights known. -/
theorem evaluate_seeking (hm : s.motion = .seeking d) (hc : s.currentHeight = some c) (hg : s.targetHeight = some g) :
    evaluate s =
      if inBand s.cfg c g = true then stopSeq s
      else if s.cfg.strategy = .command ∧ s.cfg.repeatMove = true then drive d s
      else s := by
  simp only [evaluate, hm, hc, hg]

/-- Evaluation's two situations: a seek that knows its heights, and any other. -/
theorem seekingWithHeights_or (s : State) :
    (∃ d c g, s.motion = .seeking d ∧ s.currentHeight = some c ∧ s.targetHeight = some g) ∨
      ((∀ d, s.motion ≠ .seeking d) ∨ s.currentHeight = none ∨ s.targetHeight = none) := by
  cases s.motion <;> cases s.currentHeight <;> cases s.targetHeight <;> simp

/-- Without a seek, or with a height unknown, evaluation does nothing. -/
theorem evaluate_eq_self
    (h : (∀ d, s.motion ≠ .seeking d) ∨ s.currentHeight = none ∨ s.targetHeight = none) : evaluate s = s := by
  unfold evaluate
  split
  next d c g hm hc hg => simp [hm, hc, hg] at h
  next => rfl

theorem positionUpdate_of_changed (h : Height) (hne : s.currentHeight ≠ some h) :
    positionUpdate h s = evaluate (s.setCurrentHeight (some h)) := if_neg hne

/-- The counter counts up to its last value and stays there (R195). -/
theorem countTick_eq_min (hfit : s.stateTicks < 2 ^ s.cfg.tickW) :
    countTick s = s.setTicks (min (s.stateTicks + 1) (2 ^ s.cfg.tickW - 1)) := by
  unfold countTick
  split
  next hlt => rw [Nat.min_eq_left hlt]
  next hge =>
    have hlast : min (s.stateTicks + 1) (2 ^ s.cfg.tickW - 1) = s.stateTicks := by omega
    rw [hlast]
    rfl

theorem tick_of_evalOnTick (he : s.cfg.evalOnTick = true) : tick s = evaluate (countTick s) := if_pos he

theorem tick_of_not_evalOnTick (he : s.cfg.evalOnTick = false) : tick s = countTick s := by simp [tick, he]

/-- Counting writes the counter and nothing else. -/
theorem exists_countTick_eq (s : State) : ∃ n, countTick s = s.setTicks n := by
  unfold countTick
  split
  · exact ⟨_, rfl⟩
  · exact ⟨s.stateTicks, rfl⟩

/-- The same as whole states, with the actions written out. -/
theorem evaluate_seeking_eq (hm : s.motion = .seeking d) (hc : s.currentHeight = some c)
    (hg : s.targetHeight = some g) :
    evaluate s =
      if inBand s.cfg c g = true then
        { s with
          motion := .idle, stateTicks := 0, up := (outputsStopped s).1, down := (outputsStopped s).2,
          trace := s.trace ++ stopActions s.cfg }
      else if s.cfg.strategy = .command ∧ s.cfg.repeatMove = true then
        { s with trace := s.trace ++ driveActions s.cfg d }
      else s := by
  rw [evaluate_seeking hm hc hg]
  split_ifs with hband hrepeat
  · exact stopSeq_eq s
  · exact drive_of_command hrepeat.1
  · rfl

/-- Settles O36: the branches of evaluation, and the two operations that end in it. -/
theorem evaluationStopsInBand : Obligations.EvaluationStopsInBand := by
  unfold Obligations.EvaluationStopsInBand
  refine ⟨fun s d c t => evaluate_seeking_eq, fun s h => evaluate_eq_self h,
    fun s h hne => positionUpdate_of_changed h hne, ?evalTick, ?plainTick⟩
  case evalTick =>
    intro s he
    obtain ⟨n, hn⟩ := exists_countTick_eq s
    exact ⟨n, by rw [tick_of_evalOnTick he, hn]; rfl⟩
  case plainTick =>
    intro s he
    obtain ⟨n, hn⟩ := exists_countTick_eq s
    exact ⟨n, by rw [tick_of_not_evalOnTick he, hn]; rfl⟩

/-- Everything evaluation can do, with its conditions: stop a seek whose heights are in band, or else at most repeat the
Move command under `Command`. -/
theorem evaluate_spec (s : State) :
    (∃ d c g, s.motion = .seeking d ∧ s.currentHeight = some c ∧ s.targetHeight = some g ∧
      inBand s.cfg c g = true ∧ evaluate s = stopSeq s) ∨
    evaluate s = s ∨
    (∃ d, s.motion = .seeking d ∧ s.cfg.strategy = .command ∧
      evaluate s = { s with trace := s.trace ++ driveActions s.cfg d }) := by
  obtain ⟨d, c, g, hm, hc, hg⟩ | hidle := seekingWithHeights_or s
  · rw [evaluate_seeking hm hc hg]
    split_ifs with hband hrepeat
    · exact .inl ⟨d, c, g, hm, hc, hg, hband, rfl⟩
    · exact .inr (.inr ⟨d, hm, hrepeat.1, drive_of_command hrepeat.1⟩)
    · exact .inr (.inl rfl)
  · exact .inr (.inl (evaluate_eq_self hidle))

/-- Settles O37: only the stop sequence writes more than the trace, and it needs the heights in band. -/
theorem evaluationNeverStopsOutOfBand : Obligations.EvaluationNeverStopsOutOfBand := by
  unfold Obligations.EvaluationNeverStopsOutOfBand
  constructor
  · intro s c g hc hg hout
    obtain ⟨d, c', g', -, hc', hg', hband, -⟩ | he | ⟨d, -, hst, he⟩ := evaluate_spec s
    · cases hc.symm.trans hc'
      cases hg.symm.trans hg'
      exact absurd hband (by simp [hout])
    · simp [he]
    · simp [he, hst]
  · intro s hne
    obtain ⟨d, c, g, hm, hc, hg, hband, he⟩ | he | ⟨d, -, -, he⟩ := evaluate_spec s
    · exact ⟨by rw [he, stopSeq_motion], d, c, g, hm, hc, hg, hband⟩
    · exact absurd (congrArg State.motion he) hne
    · exact absurd (congrArg State.motion he) hne

/-- Settles O38: a repeated height is no update, and outside a seek the evaluation does nothing. -/
theorem positionUpdateOutsideASeekOnlyRecords : Obligations.PositionUpdateOutsideASeekOnlyRecords := by
  unfold Obligations.PositionUpdateOutsideASeekOnlyRecords
  intro s h
  have hsame : s.currentHeight = some h → positionUpdate h s = s := fun hc => if_pos hc
  refine ⟨hsame, fun hidle => ?_⟩
  by_cases hc : s.currentHeight = some h
  · rw [hsame hc, ← hc]
  · rw [positionUpdate_of_changed h hc, evaluate_eq_self (s := s.setCurrentHeight (some h)) (.inl hidle)]
    rfl

/-- Settles O39: TICK counts to the last value, and evaluates after it under `EVAL_ON_TICK`. -/
theorem tickCountsAndSaturates : Obligations.TickCountsAndSaturates := by
  unfold Obligations.TickCountsAndSaturates
  intro s hfit
  constructor
  · intro he
    rw [tick_of_not_evalOnTick he, countTick_eq_min hfit]
    rfl
  · intro he
    rw [tick_of_evalOnTick he, countTick_eq_min hfit]
    rfl

/-! ## Errors (R260) -/

/-- Settles O42: each error is what R260's table says of it. -/
theorem errorsOnlyDropAndLog : Obligations.ErrorsOnlyDropAndLog := by
  unfold Obligations.ErrorsOnlyDropAndLog
  exact ⟨fun _ _ => rfl, fun _ _ => rfl, fun _ _ _ => rfl, fun _ _ => rfl, fun _ _ => rfl, fun _ _ _ _ => rfl⟩

end Sys2Proof.Machine
end

section
/-! The twelve rows as meanings (O9 to O16, O18): a Command's row answers its frame, a telemetry row receives its
event, and the event is DECODE's answer to the Frame that selects the row. -/

namespace Sys2Proof

/-- An instruction that is a Command is that Command's row. -/
theorem eq_toInstr_of_command? {i : Instr} {c : Command} (h : i.command? = some c) : i = c.toInstr := by
  cases i <;> cases h <;> rfl

/-- ENCODE is the encoding of the Command's row. -/
theorem encodeCommand_eq_encode (ids : CommandIds) (c : Command) : encodeCommand ids c = encode ids c.toInstr := by
  rw [encodeCommand_eq_bytes, encode, frameOfInstr_toInstr]

/-- ENCODE of a Command without payload: length 0, and the checksum is the id. -/
theorem encodeCommand_of_payload_nil {c : Command} (ids : CommandIds) (hp : c.payload = []) :
    encodeCommand ids c = [0xF1#8, 0xF1#8, c.id ids, 0x00#8, c.id ids, 0x7E#8] := by
  simp [encodeCommand, hp]

/-- ENCODE of GoToHeight (R134). -/
theorem encodeCommand_goToHeight (ids : CommandIds) (h : Height) :
    encodeCommand ids (.goToHeight h) =
      [0xF1#8, 0xF1#8, 0x1B#8, 0x02#8, BitVec.ofNat 8 (h.toNat / 256), BitVec.ofNat 8 (h.toNat % 256),
        BitVec.ofNat 8 (29 + h.toNat / 256 + h.toNat % 256), 0x7E#8] := by
  have hsum : BitVec.ofNat 8 (27 + 2 + ((highByte h).toNat + (lowByte h).toNat)) =
      BitVec.ofNat 8 (29 + h.toNat / 256 + h.toNat % 256) := by
    apply BitVec.eq_of_toNat_eq
    simp only [highByte, lowByte, BitVec.toNat_ofNat]
    omega
  rw [← hsum]
  rfl

namespace Machine

variable {s t : State} {i : Instr} {f : Frame} {h : Height}

/-! ## The outgoing rows -/

/-- A Command's row is ENCODE of it (R131 to R136). -/
theorem exec_toInstr (c : Command) (s : State) : exec c.toInstr s = .next (returnFrame c s) := by
  cases c <;> rfl

/-- Settles O9: the row is ENCODE of GoToHeight, whose eight bytes are computed. -/
theorem goToHeightReturnsItsFrame : Obligations.GoToHeightReturnsItsFrame := by
  unfold Obligations.GoToHeightReturnsItsFrame
  intro s h
  rw [← encodeCommand_goToHeight s.cfg.ids h]
  rfl

/-- The row of a Command without payload answers its six bytes and writes nothing else. -/
theorem exec_toInstr_of_payload_nil {c : Command} (hp : c.payload = []) (s : State) :
    exec c.toInstr s =
      .next { s with result := .bytes [0xF1#8, 0xF1#8, c.id s.cfg.ids, 0x00#8, c.id s.cfg.ids, 0x7E#8] } := by
  rw [exec_toInstr, ← encodeCommand_of_payload_nil s.cfg.ids hp]
  rfl

/-- Settles O10: each of the five rows is ENCODE of a Command without payload. -/
theorem plainCommandsReturnTheirFrames : Obligations.PlainCommandsReturnTheirFrames := by
  unfold Obligations.PlainCommandsReturnTheirFrames
  intro s
  exact ⟨exec_toInstr_of_payload_nil (c := .moveUp) rfl s, exec_toInstr_of_payload_nil (c := .moveDown) rfl s,
    exec_toInstr_of_payload_nil (c := .stop) rfl s, exec_toInstr_of_payload_nil (c := .queryMemoryAndHeight) rfl s,
    exec_toInstr_of_payload_nil (c := .queryLimits) rfl s⟩

/-- Settles O11: the row is ENCODE of the Command, which writes the result alone. -/
theorem commandsLeaveTheStateAlone : Obligations.CommandsLeaveTheStateAlone := by
  unfold Obligations.CommandsLeaveTheStateAlone
  intro i c s hi
  rw [eq_toInstr_of_command? hi, ← encodeCommand_eq_encode]
  exact ⟨_, exec_toInstr c s, rfl, rfl, rfl, rfl, rfl, rfl, rfl, rfl, rfl, rfl, rfl, rfl, fun _ => rfl⟩

/-! ## The telemetry rows -/

theorem exec_heightReading (h : Height) (extra : Byte) (s : State) :
    exec (.heightReading h extra) s = .next (receiveEvent (.heightReading h) s) := rfl

/-- The state a changed reading is evaluated in: published, recorded, and DECODE's result given. -/
def recordReading (h : Height) (s : State) : State :=
  { s with currentHeight := some h, trace := s.trace ++ [.publish h], result := .event (some (.heightReading h)) }

/-- A changed height is published, recorded and evaluated (R232). -/
theorem receiveEvent_heightReading_of_changed (hne : s.currentHeight ≠ some h) :
    receiveEvent (.heightReading h) s = evaluate (recordReading h s) := by
  rw [receiveEvent_heightReading, if_neg hne]
  exact positionUpdate_of_changed h hne

/-- Settles O12: a repeated height changes the result alone; a changed one is evaluated with the height known. -/
theorem heightReadingCompletes : Obligations.HeightReadingCompletes := by
  unfold Obligations.HeightReadingCompletes
  intro s h extra
  rw [exec_heightReading]
  by_cases hne : s.currentHeight = some h
  · rw [receiveEvent_heightReading, if_pos hne]
    simp [hne, State.returns]
  · rw [receiveEvent_heightReading_of_changed hne]
    simp only [if_neg hne]
    split
    next d g hm hg =>
      rw [evaluate_seeking_eq (s := recordReading h s) hm rfl hg]
      simp only [inBand_iff, recordReading, List.append_assoc, List.singleton_append]
      rfl
    next hidle =>
      have hquiet := (seekingWithHeights_or (recordReading h s)).resolve_left
        fun ⟨d, _, g, hm, _, hg⟩ => hidle d g hm hg
      rw [evaluate_eq_self hquiet]
      rfl

/-- Settles O13: the row stores both limits. -/
theorem limitReadingStoresBothLimits : Obligations.LimitReadingStoresBothLimits := by
  unfold Obligations.LimitReadingStoresBothLimits
  exact fun _ _ _ => rfl

theorem heightAt_zero_of_length_lt {p : List Byte} (hp : p.length < 2) : heightAt p 0 = none := by
  match p, hp with
  | [], _ => rfl
  | [_], _ => rfl

/-- A shorter slot payload is logged as an underflow (R167). -/
theorem receiveSlot_of_length_lt (cid : Byte) {p : List Byte} (hp : p.length < 2) (s : State) :
    receiveSlot cid p s =
      { s with trace := s.trace ++ [.log (.underflowError cid p.length)], result := .event none } := by
  rw [receiveSlot, heightAt_zero_of_length_lt hp]
  rfl

/-- Settles O14: the four rows receive a slot of their own id. -/
theorem memorySlotReadingsComplete : Obligations.MemorySlotReadingsComplete := by
  unfold Obligations.MemorySlotReadingsComplete
  refine ⟨fun s hi lo rest => ⟨rfl, rfl, rfl, rfl⟩, fun s p hp => ?_⟩
  exact ⟨congrArg _ (receiveSlot_of_length_lt _ hp s), congrArg _ (receiveSlot_of_length_lt _ hp s),
    congrArg _ (receiveSlot_of_length_lt _ hp s), congrArg _ (receiveSlot_of_length_lt _ hp s)⟩

/-- Every instruction completes, in every state. -/
theorem exists_exec_eq_next (i : Instr) (s : State) : ∃ t, exec i s = .next t := by
  cases i <;> exact ⟨_, rfl⟩

/-! ## What an evaluation and an event add to the trace -/

/-- What an evaluation may add to the trace (R193): nothing, the stop sequence, or a repeated Move under `Command`. -/
def EvaluationActions (cfg : Cfg) (acts : List Action) : Prop :=
  acts = [] ∨ acts = stopActions cfg ∨ (cfg.strategy = .command ∧ ∃ d, acts = driveActions cfg d)

theorem exists_evaluate_trace (s : State) :
    ∃ acts, (evaluate s).trace = s.trace ++ acts ∧ EvaluationActions s.cfg acts := by
  obtain ⟨d, c, g, -, -, -, -, he⟩ | he | ⟨d, -, hst, he⟩ := evaluate_spec s
  · exact ⟨_, by rw [he, stopSeq_eq], .inr (.inl rfl)⟩
  · exact ⟨[], by rw [he, List.append_nil], .inl rfl⟩
  · exact ⟨_, by rw [he], .inr (.inr ⟨hst, d, rfl⟩)⟩

/-- A changed height is published, and what evaluation adds follows (R232). -/
theorem exists_receiveEvent_heightReading_trace (hne : s.currentHeight ≠ some h) :
    ∃ acts, (receiveEvent (.heightReading h) s).trace = s.trace ++ .publish h :: acts ∧
      EvaluationActions s.cfg acts := by
  rw [receiveEvent_heightReading_of_changed hne]
  obtain ⟨acts, htr, hacts⟩ := exists_evaluate_trace (recordReading h s)
  exact ⟨acts, by rw [htr, recordReading, List.append_assoc, List.singleton_append], hacts⟩

/-! ## What an instruction can do -/

/-- A slot row gives its event, or logs an underflow. -/
theorem receiveSlot_cases (cid : Byte) (p : List Byte) (s : State) :
    (∃ r, receiveSlot cid p s = s.returns r) ∨
      ∃ n, receiveSlot cid p s = (raiseError (.underflowError cid n) s).returns (.event none) := by
  unfold receiveSlot
  split
  · exact .inl ⟨_, rfl⟩
  · exact .inr ⟨_, rfl⟩

/-- Everything an instruction can do: only answer, log an underflow, store the limits, or receive a height. -/
theorem exec_cases (ht : exec i s = .next t) :
    (∃ r, t = s.returns r) ∨
    (∃ cid n, t = (raiseError (.underflowError cid n) s).returns (.event none)) ∨
    (∃ mx mn, i = .limitReading mx mn ∧ t = (s.returns (.event (some (.limitReading mx mn)))).setLimits mx mn) ∨
    (∃ h extra, i = .heightReading h extra ∧ t = receiveEvent (.heightReading h) s) := by
  have hslot {cid : Byte} {p : List Byte} : (∃ r, receiveSlot cid p s = s.returns r) ∨
      ∃ cid' n, receiveSlot cid p s = (raiseError (.underflowError cid' n) s).returns (.event none) :=
    (receiveSlot_cases cid p s).imp_right fun hn => ⟨cid, hn⟩
  cases i <;> cases ht
  case heightReading h extra => exact .inr (.inr (.inr ⟨h, extra, rfl, rfl⟩))
  case limitReading mx mn => exact .inr (.inr (.inl ⟨mx, mn, rfl, rfl⟩))
  case memorySlotReading37 | memorySlotReading38 | memorySlotReading39 | memorySlotReading40 =>
    exact hslot.imp_right .inl
  all_goals exact .inl ⟨_, rfl⟩

@[simp] theorem receiveEvent_heightReading_maxHeight (h : Height) (s : State) :
    (receiveEvent (.heightReading h) s).maxHeight = s.maxHeight := by
  rw [receiveEvent_heightReading]; split <;> simp

@[simp] theorem receiveEvent_heightReading_minHeight (h : Height) (s : State) :
    (receiveEvent (.heightReading h) s).minHeight = s.minHeight := by
  rw [receiveEvent_heightReading]; split <;> simp

/-- A received height is the height known after it (R22). -/
@[simp] theorem receiveEvent_heightReading_currentHeight (h : Height) (s : State) :
    (receiveEvent (.heightReading h) s).currentHeight = some h := by
  rw [receiveEvent_heightReading]
  split
  next hc => exact hc
  next => exact positionUpdate_currentHeight _ h

/-- An instruction only adds to the trace. -/
theorem exists_exec_trace (ht : exec i s = .next t) : ∃ acts, t.trace = s.trace ++ acts := by
  obtain ⟨r, rfl⟩ | ⟨cid, n, rfl⟩ | ⟨mx, mn, rfl, rfl⟩ | ⟨h, extra, rfl, rfl⟩ := exec_cases ht
  · exact ⟨[], by simp⟩
  · exact ⟨_, by simp; rfl⟩
  · exact ⟨[], by simp⟩
  · by_cases hc : s.currentHeight = some h
    · exact ⟨[], by simp [receiveEvent_heightReading, hc]⟩
    · obtain ⟨acts, htr, -⟩ := exists_receiveEvent_heightReading_trace hc
      exact ⟨_, htr⟩

/-- Settles O15: the rows leave alone what `exec_leaves` says, and of the rest each writes what its case names. -/
theorem telemetryRowsFrame : Obligations.TelemetryRowsFrame := by
  unfold Obligations.TelemetryRowsFrame
  intro i s _
  obtain ⟨t, ht⟩ := exists_exec_eq_next i s
  obtain ⟨hbuf, hcfg, htarget, hpending⟩ := exec_leaves s ht
  refine ⟨t, ht, fun a => by rw [hbuf], hcfg, htarget, hpending, exists_exec_trace ht, ?limits, ?motion⟩
  case limits =>
    intro hnot
    obtain ⟨r, rfl⟩ | ⟨cid, n, rfl⟩ | ⟨mx, mn, rfl, -⟩ | ⟨h, extra, rfl, rfl⟩ := exec_cases ht
    · simp
    · simp
    · exact absurd rfl (hnot mx mn)
    · simp
  case motion =>
    intro hnot
    obtain ⟨r, rfl⟩ | ⟨cid, n, rfl⟩ | ⟨mx, mn, rfl, rfl⟩ | ⟨h, extra, rfl, -⟩ := exec_cases ht
    · simp
    · simp
    · simp
    · exact absurd rfl (hnot h extra)

/-! ## DECODE's mapping (R160) -/

theorem payload_length_of_length {n : Nat} (hwf : f.wf = true) (hn : n < 256) (hl : f.length = BitVec.ofNat 8 n) :
    f.payload.length = n := by
  rw [← length_toNat_of_wf hwf, hl, BitVec.toNat_ofNat, Nat.mod_eq_of_lt hn]

/-- A Frame with id 1 and three payload bytes is a HeightReading of the first two. -/
theorem telemetryOf_height {p0 p1 p2 : Byte} (hwf : f.wf = true) (hid : f.commandId = 1#8)
    (hp : f.payload = [p0, p1, p2]) : telemetryOf f = .event (.heightReading (heightOf p0 p1)) := by
  have hl : f.length = 3#8 := length_eq_of_payload_length hwf (by rw [hp]; rfl)
  simp [telemetryOf, hid, hl, hp, heightAt]

/-- A Frame with id 7 and four payload bytes is a LimitReading, the maximum first. -/
theorem telemetryOf_limits {p0 p1 p2 p3 : Byte} (hwf : f.wf = true) (hid : f.commandId = 7#8)
    (hp : f.payload = [p0, p1, p2, p3]) :
    telemetryOf f = .event (.limitReading (heightOf p0 p1) (heightOf p2 p3)) := by
  have hl : f.length = 4#8 := length_eq_of_payload_length hwf (by rw [hp]; rfl)
  simp [telemetryOf, hid, hl, hp, heightAt, isSlotId]

theorem isSlotId_iff (cid : Byte) :
    isSlotId cid = true ↔ cid = 37#8 ∨ cid = 38#8 ∨ cid = 39#8 ∨ cid = 40#8 := by
  simp [isSlotId]

/-- A slot Frame's answer: the event of the height its payload starts with, or an underflow. -/
theorem telemetryOf_slot (hslot : isSlotId f.commandId = true) :
    telemetryOf f =
      (heightAt f.payload 0).elim (.underflow f.commandId f.length.toNat) fun h =>
        .event (.memorySlotReading f.commandId h) := by
  have hid : f.commandId ≠ 1#8 := by
    intro h
    rw [h] at hslot
    exact absurd hslot (by decide)
  cases hp : heightAt f.payload 0 <;> simp [telemetryOf, hid, hslot, hp]

/-- Settles O16: each clause fixes the shape of the payload, and the heights are read off it. -/
theorem decodeSelectsByIdAndLength : Obligations.DecodeSelectsByIdAndLength := by
  unfold Obligations.DecodeSelectsByIdAndLength
  intro f hwf
  dsimp only
  simp only [← isSlotId_iff]
  refine ⟨?height, ?slot, ?short, ?limits⟩
  case height =>
    rintro ⟨hid, hl⟩
    obtain ⟨p0, p1, p2, hp⟩ := List.length_eq_three.1 (payload_length_of_length hwf (by decide) hl)
    exact ⟨_, telemetryOf_height hwf hid hp, by simp [hp]⟩
  case slot =>
    rintro ⟨hslot, hl⟩
    rw [length_toNat_of_wf hwf] at hl
    obtain ⟨p0, p1, rest, hp⟩ : ∃ p0 p1 rest, f.payload = p0 :: p1 :: rest := by
      match f.payload, hl with
      | p0 :: p1 :: rest, _ => exact ⟨p0, p1, rest, rfl⟩
    exact ⟨heightOf p0 p1, by rw [telemetryOf_slot hslot, hp]; rfl, by simp [hp]⟩
  case short =>
    rintro ⟨hslot, hl⟩
    rw [length_toNat_of_wf hwf] at hl
    rw [telemetryOf_slot hslot, heightAt_zero_of_length_lt hl]
    rfl
  case limits =>
    rintro ⟨hid, hl⟩
    obtain ⟨p0, p1, p2, p3, hp⟩ := List.length_eq_four.1 (payload_length_of_length hwf (by decide) hl)
    exact ⟨_, _, telemetryOf_limits hwf hid hp, by simp [hp], by simp [hp]⟩

/-! ## Running a Frame's row is DECODE and apply (R230) -/

/-- Running `i` is receiving the event DECODE answers to `f`, or reporting the underflow it answers. -/
def RunsDecoded (f : Frame) (i : Instr) (s : State) : Prop :=
  (∃ e, telemetryOf f = .event e ∧ exec i s = .next (receiveEvent e s)) ∨
    (∃ cid n, telemetryOf f = .underflow cid n ∧ exec i s = .next (reportDecoding (.underflow cid n) s))

/-- A slot Frame's row receives its event or reports its underflow, as DECODE answers. -/
theorem runsDecoded_of_slot (hwf : f.wf = true) (hslot : isSlotId f.commandId = true)
    (hexec : exec i s = .next (receiveSlot f.commandId f.payload s)) : RunsDecoded f i s := by
  rw [RunsDecoded, telemetryOf_slot hslot, length_toNat_of_wf hwf, hexec, receiveSlot]
  cases heightAt f.payload 0 with
  | some h => exact .inl ⟨_, rfl, rfl⟩
  | none => exact .inr ⟨_, _, rfl, rfl⟩

/-- The row a Frame selects runs DECODE's answer. -/
theorem runsDecoded_of_instrOfIncoming (hwf : f.wf = true) (hsel : instrOfIncoming f = some i) (s : State) :
    RunsDecoded f i s := by
  unfold instrOfIncoming at hsel
  split_ifs at hsel with h1 h37 h38 h39 h40 h7
  · split at hsel
    next p0 p1 p2 hp =>
      cases hsel
      exact .inl ⟨_, telemetryOf_height hwf h1 hp, rfl⟩
    next => cases hsel
  · cases hsel
    exact runsDecoded_of_slot hwf ((isSlotId_iff _).2 (by simp [h37])) (by rw [h37]; rfl)
  · cases hsel
    exact runsDecoded_of_slot hwf ((isSlotId_iff _).2 (by simp [h38])) (by rw [h38]; rfl)
  · cases hsel
    exact runsDecoded_of_slot hwf ((isSlotId_iff _).2 (by simp [h39])) (by rw [h39]; rfl)
  · cases hsel
    exact runsDecoded_of_slot hwf ((isSlotId_iff _).2 (by simp [h40])) (by rw [h40]; rfl)
  · split at hsel
    next p0 p1 p2 p3 hp =>
      cases hsel
      exact .inl ⟨_, telemetryOf_limits hwf h7 hp, rfl⟩
    next => cases hsel

/-- A valid Frame that selects no row is unrecognised (R168). -/
theorem unrecognised_of_instrOfIncoming (hwf : f.wf = true) (hsel : instrOfIncoming f = none) : Unrecognised f := by
  unfold instrOfIncoming at hsel
  split_ifs at hsel with h1 h37 h38 h39 h40 h7
  · refine .inr (.inl ⟨h1, fun hl => ?_⟩)
    obtain ⟨p0, p1, p2, hp⟩ := List.length_eq_three.1 (payload_length_of_length hwf (by decide) hl)
    rw [hp] at hsel
    cases hsel
  · refine .inr (.inr ⟨h7, fun hl => ?_⟩)
    obtain ⟨p0, p1, p2, p3, hp⟩ := List.length_eq_four.1 (payload_length_of_length hwf (by decide) hl)
    rw [hp] at hsel
    cases hsel
  · exact .inl ⟨h1, h7, h37, h38, h39, h40⟩

/-- Settles O18: the row selected runs DECODE's answer, and a Frame that selects none is unrecognised. -/
theorem runningAFrameIsDecodeThenApply : Obligations.RunningAFrameIsDecodeThenApply := by
  unfold Obligations.RunningAFrameIsDecodeThenApply
  intro f s hwf
  split
  next hsel => exact telemetryOf_of_unrecognised (unrecognised_of_instrOfIncoming hwf hsel)
  next i hsel => exact runsDecoded_of_instrOfIncoming hwf hsel s

end Machine

end Sys2Proof
end

section
/-! The step (O44, O45, O47, O53, O58, O59): what each pending operation runs, and the two stops. -/

namespace Sys2Proof.Machine

variable {s t : State} {h c : Height} {f : Frame} {op : HostOp} {rest : List HostOp}

/-! ## One operation is one step -/

/-- Settles O58: the step takes the operation and runs it. -/
theorem stepRunsTheHostOperation : Obligations.StepRunsTheHostOperation := by
  unfold Obligations.StepRunsTheHostOperation
  exact fun _ _ => ⟨fun _ => rfl, rfl, fun _ => rfl, fun _ => rfl, fun _ => rfl, rfl, fun _ => rfl⟩

/-- Settles O47: RESET takes nothing over but the pending operations and the trace. -/
theorem resetLeavesEveryFieldUnset : Obligations.ResetLeavesEveryFieldUnset := by
  unfold Obligations.ResetLeavesEveryFieldUnset
  intro s cfg rest
  rw [step_cons _ rfl]
  cases cfg with
  | mk st => cases st <;> rfl

/-- A slot Frame alone underflows, with its own id and length. -/
theorem telemetryOf_eq_underflow {cid : Byte} {n : Nat} (hf : telemetryOf f = .underflow cid n) :
    cid = f.commandId ∧ n = f.length.toNat := by
  unfold telemetryOf at hf
  split_ifs at hf
  all_goals split at hf <;> cases hf
  exact ⟨rfl, rfl⟩

/-- Settles O59: DECODE of a Frame reports what it maps to. -/
theorem decodeAnswersAndAppliesNothing : Obligations.DecodeAnswersAndAppliesNothing := by
  unfold Obligations.DecodeAnswersAndAppliesNothing
  intro s f rest hwf
  rw [step_cons _ rfl, runOp, decodeFrame, if_pos hwf]
  split
  next e he => rw [he]; rfl
  next cid n he =>
    obtain ⟨rfl, rfl⟩ := telemetryOf_eq_underflow he
    rw [he]
    rfl
  next he => rw [he]; rfl

/-- A step with ENCODE pending runs the Command's row. -/
theorem step_encode {c : Command} (hp : s.pending = .encode c :: rest) :
    step s = exec c.toInstr { s with pending := rest } :=
  step_cons s hp

/-- Settles O44: a table word that decodes to a Command is placed as ENCODE of it. -/
theorem stepRunsTheCommand : Obligations.StepRunsTheCommand := by
  unfold Obligations.StepRunsTheCommand
  refine ⟨fun s c rest hp => step_encode hp, ?_, fun s => step_nil s⟩
  intro s nbits w i c hdec hc
  have hplaced : s.withFetchWord nbits w = s.setPending (.encode c :: s.pending) := by
    simp only [State.withFetchWord, presentWord, hdec, hc]
  rw [hplaced, step_encode rfl, eq_toInstr_of_command? hc]
  rfl

/-! ## The answer of SET_TARGET -/

/-- The answer says whether the target is in range and the height known (R186, R236). -/
theorem setTarget_result (ht : setTarget h s = .next t) :
    ∃ b, t.result = .accepted b ∧ (b = true ↔ inRange s h = true ∧ s.currentHeight ≠ none) := by
  obtain ⟨hr, e⟩ | ⟨hr, hc, e⟩ | ⟨c, hr, hc, e⟩ := setTarget_cases s h <;> rw [e] at ht
  · cases ht
    exact ⟨false, rfl, by simp [hr]⟩
  · cases ht
    exact ⟨false, rfl, by simp [hc]⟩
  · obtain ⟨u, -, hret⟩ := andThen_eq_next ht
    cases hret
    exact ⟨true, rfl, by simp [hr, hc]⟩

/-- Settles O45: both operations run SET_TARGET. -/
theorem requestHeightForwards : Obligations.RequestHeightForwards := by
  unfold Obligations.RequestHeightForwards
  intro s h rest
  exact ⟨rfl, fun t ht => setTarget_result (s := { s with pending := rest }) ht⟩

/-! ## Where a step stops -/

/-- A drain always completes: every instruction does. -/
theorem exists_drain_eq_next (s : State) : ∃ t, drain s = .next t :=
  drain_induction (P := fun _ o => ∃ t, o = .next t)
    (done := fun _ _ => ⟨_, rfl⟩)
    (ignored := fun _ _ _ _ ih => ih)
    (ran := fun _ _ _ _ _ _ _ ih => ih)
    (faulted := fun s _ i _ _ _ hx => by
      obtain ⟨t, ht⟩ := exists_exec_eq_next i (nextFrame s).2
      cases ht.symm.trans hx)
    (refused := fun s _ i _ _ _ hx => by
      obtain ⟨t, ht⟩ := exists_exec_eq_next i (nextFrame s).2
      cases ht.symm.trans hx) s

/-- Every operation completes but a target and a DECODE, which have conditions of their own. -/
theorem runOp_completes_or (op : HostOp) (s : State) :
    (∃ t, runOp op s = .next t) ∨
    (∃ h, (op = .setTarget h ∨ op = .requestHeight h) ∧ runOp op s = setTarget h s) ∨
    (∃ f, op = .decode f ∧ runOp op s = decodeFrame f s) := by
  cases op with
  | setTarget h => exact .inr (.inl ⟨h, .inl rfl, rfl⟩)
  | requestHeight h => exact .inr (.inl ⟨h, .inr rfl, rfl⟩)
  | decode f => exact .inr (.inr ⟨f, rfl, rfl⟩)
  | encode c => exact .inl (exists_exec_eq_next _ s)
  | ingestBytes bs =>
    obtain ⟨t, ht⟩ := exists_drain_eq_next (feed bs s)
    exact .inl ⟨_, by rw [runOp, ingestBytes, ht, andThen_next]⟩
  | feed | nextFrame | positionUpdate | tick | queryLimits | queryMemoryAndHeight | reset => exact .inl ⟨_, rfl⟩

/-- The seek of an accepted target stops in `Stopping` alone. -/
theorem seekTo_eq_of_stopping (hm : s.motion = .stopping) : seekTo c h s = .fault .stoppingAtBoundary := by
  simp [seekTo, hm]

theorem exists_seekTo_eq_next (hm : s.motion ≠ .stopping) : ∃ t, seekTo c h s = .next t := by
  obtain e | ⟨-, e⟩ | ⟨d, -, e⟩ | ⟨d, -, -, e⟩ | ⟨hstop, -⟩ := seekTo_cases s c h
  · exact ⟨_, e⟩
  · exact ⟨_, e⟩
  · exact ⟨_, e⟩
  · exact ⟨_, e⟩
  · exact absurd hstop hm

/-- SET_TARGET completes, or faults in `Stopping` on an acceptable target. -/
theorem setTarget_completes_or (h : Height) (s : State) :
    (∃ t, setTarget h s = .next t) ∨
    (setTarget h s = .fault .stoppingAtBoundary ∧ s.motion = .stopping ∧ inRange s h = true ∧
      s.currentHeight ≠ none) := by
  obtain ⟨-, e⟩ | ⟨-, -, e⟩ | ⟨c, hr, hc, e⟩ := setTarget_cases s h
  · exact .inl ⟨_, e⟩
  · exact .inl ⟨_, e⟩
  · by_cases hm : s.motion = .stopping
    · rw [e, seekTo_eq_of_stopping (s := s.setTargetHeight (some h)) hm]
      exact .inr ⟨rfl, hm, hr, by simp [hc]⟩
    · obtain ⟨u, hu⟩ := exists_seekTo_eq_next (s := s.setTargetHeight (some h)) (c := c) (h := h) hm
      exact .inl ⟨_, by rw [e, hu, andThen_next]⟩

theorem setTarget_of_stopping (hm : s.motion = .stopping) (hr : inRange s h = true) (hc : s.currentHeight ≠ none) :
    setTarget h s = .fault .stoppingAtBoundary := by
  obtain ⟨c, hc⟩ := Option.ne_none_iff_exists'.1 hc
  simp [setTarget, hr, hc, seekTo_eq_of_stopping (s := s.setTargetHeight (some h)) hm, andThen]

/-- A step faults on an acceptable target in `Stopping`, and on nothing else. -/
theorem step_eq_fault_iff (r : Fault) :
    step s = .fault r ↔ r = .stoppingAtBoundary ∧ ∃ h rest,
      (s.pending = .setTarget h :: rest ∨ s.pending = .requestHeight h :: rest) ∧
        s.motion = .stopping ∧ inRange s h = true ∧ s.currentHeight ≠ none := by
  constructor
  · intro hstep
    cases hp : s.pending with
    | nil => cases (step_nil s hp).symm.trans hstep
    | cons op rest =>
      rw [step_cons s hp] at hstep
      obtain ⟨t, ht⟩ | ⟨h, hop, hrun⟩ | ⟨f, -, hrun⟩ := runOp_completes_or op (s.setPending rest)
      · cases ht.symm.trans hstep
      · rw [hrun] at hstep
        obtain ⟨t, ht⟩ | ⟨hfault, hm, hr, hc⟩ := setTarget_completes_or h (s.setPending rest)
        · cases ht.symm.trans hstep
        · cases hfault.symm.trans hstep
          exact ⟨rfl, h, rest, by simpa using hop, hm, hr, hc⟩
      · rw [hrun, decodeFrame] at hstep
        split at hstep <;> cases hstep
  · rintro ⟨rfl, h, rest, hp | hp, hm, hr, hc⟩ <;> rw [step_cons s hp]
    · exact setTarget_of_stopping (s := s.setPending rest) hm hr hc
    · exact setTarget_of_stopping (s := s.setPending rest) hm hr hc

/-- A step refuses DECODE of a record that is no Frame, and nothing else. -/
theorem step_eq_refused_iff (r : Refusal) :
    step s = .refused r ↔ r = .notAFrame ∧ ∃ f rest, s.pending = .decode f :: rest ∧ f.wf = false := by
  constructor
  · intro hstep
    cases hp : s.pending with
    | nil => cases (step_nil s hp).symm.trans hstep
    | cons op rest =>
      rw [step_cons s hp] at hstep
      obtain ⟨t, ht⟩ | ⟨h, -, hrun⟩ | ⟨f, rfl, hrun⟩ := runOp_completes_or op (s.setPending rest)
      · cases ht.symm.trans hstep
      · rw [hrun] at hstep
        obtain ⟨t, ht⟩ | ⟨hfault, -⟩ := setTarget_completes_or h (s.setPending rest)
        · cases ht.symm.trans hstep
        · cases hfault.symm.trans hstep
      · rw [hrun, decodeFrame] at hstep
        split at hstep
        next => cases hstep
        next hwf =>
          cases hstep
          exact ⟨rfl, f, rest, rfl, by simpa using hwf⟩
  · rintro ⟨rfl, f, rest, hp, hwf⟩
    rw [step_cons s hp, runOp, decodeFrame, hwf]
    rfl

/-- Settles O53: a step stops only through a target or a DECODE. -/
theorem stepStopsOnlyHere : Obligations.StepStopsOnlyHere := by
  unfold Obligations.StepStopsOnlyHere
  exact fun _ => ⟨step_eq_fault_iff, step_eq_refused_iff⟩

end Sys2Proof.Machine
end

section
/-! The boundary invariant (O49, O50): each operation keeps it, and RESET establishes it. -/

namespace Sys2Proof.Machine

variable {s t : State} {d : Direction} {h c : Height}

/-! ## Writes the invariant bears -/

/-- The part of the state in which the invariant relates motion to the rest is as before. -/
structure SameMotion (s t : State) : Prop where
  cfg : t.cfg = s.cfg
  motion : t.motion = s.motion
  up : t.up = s.up
  down : t.down = s.down
  targetHeight : t.targetHeight = s.targetHeight
  stateTicks : t.stateTicks = s.stateTicks

/-- A write that leaves motion alone keeps the invariant if the buffer still fits, the limits are known together and a
known height stays known. -/
theorem BoundaryInv.of_sameMotion (hs : BoundaryInv s) (hsame : SameMotion s t)
    (hbuf : Memory.wf s.cfg.bufCap t.buf = true) (hlimits : t.maxHeight.isSome = t.minHeight.isSome)
    (hheight : s.currentHeight.isSome = true → t.currentHeight.isSome = true) : BoundaryInv t := by
  obtain ⟨hcfg, hmotion, hup, hdown, htarget, hticks⟩ := hsame
  obtain ⟨-, -, hstop, hagree, hseek, hfit⟩ := hs
  refine ⟨by rwa [hcfg], hlimits, by rwa [hmotion], ?agree, ?seek, by rwa [hticks, hcfg]⟩
  case agree =>
    cases s
    cases t
    subst hcfg hmotion hup hdown
    exact hagree
  case seek =>
    intro d hm
    obtain ⟨hknown, hgoal⟩ := hseek d (hmotion ▸ hm)
    exact ⟨hheight hknown, htarget ▸ hgoal⟩

protected theorem BoundaryInv.returns (r : OpResult) (hs : BoundaryInv s) : BoundaryInv (s.returns r) :=
  hs.of_sameMotion ⟨rfl, rfl, rfl, rfl, rfl, rfl⟩ hs.bufFits hs.limitsTogether id

protected theorem BoundaryInv.setPending (ops : List HostOp) (hs : BoundaryInv s) : BoundaryInv (s.setPending ops) :=
  hs.of_sameMotion ⟨rfl, rfl, rfl, rfl, rfl, rfl⟩ hs.bufFits hs.limitsTogether id

protected theorem BoundaryInv.act (a : Action) (hs : BoundaryInv s) : BoundaryInv (s.act a) :=
  hs.of_sameMotion ⟨rfl, rfl, rfl, rfl, rfl, rfl⟩ hs.bufFits hs.limitsTogether id

protected theorem BoundaryInv.setCurrentHeight (h : Height) (hs : BoundaryInv s) :
    BoundaryInv (s.setCurrentHeight (some h)) :=
  hs.of_sameMotion ⟨rfl, rfl, rfl, rfl, rfl, rfl⟩ hs.bufFits hs.limitsTogether fun _ => rfl

protected theorem BoundaryInv.setLimits (mx mn : Height) (hs : BoundaryInv s) : BoundaryInv (s.setLimits mx mn) :=
  hs.of_sameMotion ⟨rfl, rfl, rfl, rfl, rfl, rfl⟩ hs.bufFits rfl id

protected theorem BoundaryInv.setTargetHeight (h : Height) (hs : BoundaryInv s) :
    BoundaryInv (s.setTargetHeight (some h)) := by
  obtain ⟨hbuf, hlimits, hstop, hagree, hseek, hfit⟩ := hs
  exact ⟨hbuf, hlimits, hstop, hagree, fun d hm => ⟨(hseek d hm).1, rfl⟩, hfit⟩

/-! ## MotionController -/

/-- Under `Command` the outputs hold `false` (R26). -/
theorem BoundaryInv.outputs_of_command (hs : BoundaryInv s) (hst : s.cfg.strategy = .command) :
    s.up = false ∧ s.down = false := by
  have hagree := hs.outputsAgree
  rwa [OutputsAgree, hst] at hagree

/-- The outputs a stop leaves are both `false` at a boundary. -/
theorem BoundaryInv.outputsStopped_eq (hs : BoundaryInv s) : outputsStopped s = (false, false) := by
  unfold outputsStopped
  split
  next => rfl
  next hst => rw [(hs.outputs_of_command hst).1, (hs.outputs_of_command hst).2]

protected theorem BoundaryInv.stopSeq (hs : BoundaryInv s) : BoundaryInv (stopSeq s) := by
  rw [stopSeq_eq, hs.outputsStopped_eq]
  refine ⟨hs.bufFits, hs.limitsTogether, nofun, ?_, nofun, Nat.two_pow_pos _⟩
  unfold OutputsAgree
  split <;> exact ⟨rfl, rfl⟩

/-- Engaging a direction in a seek that knows its heights, whatever the actions were (R186, R190). -/
theorem BoundaryInv.engage (hs : BoundaryInv s) (hc : s.currentHeight.isSome = true)
    (hg : s.targetHeight.isSome = true) (d : Direction) (tr : List Action) :
    BoundaryInv { s with
      motion := .seeking d, stateTicks := 0, up := (outputsDriving s d).1, down := (outputsDriving s d).2,
      trace := tr } := by
  refine ⟨hs.bufFits, hs.limitsTogether, nofun, ?_, fun _ _ => ⟨hc, hg⟩, Nat.two_pow_pos _⟩
  unfold OutputsAgree outputsDriving
  split
  next hst =>
    rw [show s.cfg.strategy = .command from hst]
    exact hs.outputs_of_command hst
  next hst =>
    rw [show s.cfg.strategy = .outputs from hst]
    cases d <;> exact ⟨rfl, rfl⟩

protected theorem BoundaryInv.evaluate (hs : BoundaryInv s) : BoundaryInv (evaluate s) := by
  obtain ⟨d, c, g, -, -, -, -, he⟩ | he | ⟨d, -, -, he⟩ := evaluate_spec s <;> rw [he]
  · exact hs.stopSeq
  · exact hs
  · exact hs.of_sameMotion ⟨rfl, rfl, rfl, rfl, rfl, rfl⟩ hs.bufFits hs.limitsTogether id

protected theorem BoundaryInv.positionUpdate (h : Height) (hs : BoundaryInv s) : BoundaryInv (positionUpdate h s) := by
  unfold positionUpdate
  split
  · exact hs
  · exact (hs.setCurrentHeight h).evaluate

protected theorem BoundaryInv.countTick (hs : BoundaryInv s) : BoundaryInv (countTick s) := by
  have hfit := (countTick_bounds s hs.ticksFit).2
  obtain ⟨n, hn⟩ := exists_countTick_eq s
  rw [hn] at hfit ⊢
  exact ⟨hs.bufFits, hs.limitsTogether, hs.notStopping, hs.outputsAgree, hs.seekKnowsHeights, hfit⟩

protected theorem BoundaryInv.tick (hs : BoundaryInv s) : BoundaryInv (tick s) := by
  unfold tick
  split
  · exact hs.countTick.evaluate
  · exact hs.countTick

protected theorem BoundaryInv.of_seekTo (hs : BoundaryInv s) (hc : s.currentHeight.isSome = true)
    (hg : s.targetHeight.isSome = true) (ht : seekTo c h s = .next t) : BoundaryInv t := by
  obtain e | ⟨-, e⟩ | ⟨d, -, e⟩ | ⟨d, -, -, e⟩ | ⟨-, e⟩ := seekTo_cases s c h <;> cases e.symm.trans ht
  · exact hs
  · rw [drive_enter_eq]
    exact hs.engage hc hg _ _
  · exact hs.stopSeq
  · rw [reverse_eq]
    exact hs.engage hc hg _ _

protected theorem BoundaryInv.of_setTarget (hs : BoundaryInv s) (ht : setTarget h s = .next t) : BoundaryInv t := by
  obtain ⟨-, e⟩ | ⟨-, -, e⟩ | ⟨c, -, hc, e⟩ := setTarget_cases s h <;> rw [e] at ht
  · cases ht
    exact (hs.act _).returns _
  · cases ht
    exact (hs.act _).returns _
  · obtain ⟨u, hu, hret⟩ := andThen_eq_next ht
    cases hret
    exact ((hs.setTargetHeight h).of_seekTo (by simp [hc]) rfl hu).returns _

/-! ## Events and instructions -/

protected theorem BoundaryInv.reportDecoding (dec : Decoding) (hs : BoundaryInv s) :
    BoundaryInv (reportDecoding dec s) := by
  cases dec with
  | event e => exact hs.returns _
  | underflow cid n => exact (hs.act _).returns _
  | nothing => exact hs.returns _

protected theorem BoundaryInv.of_exec {i : Instr} (hs : BoundaryInv s) (ht : exec i s = .next t) : BoundaryInv t := by
  obtain ⟨r, rfl⟩ | ⟨cid, n, rfl⟩ | ⟨mx, mn, -, rfl⟩ | ⟨h, extra, -, rfl⟩ := exec_cases ht
  · exact hs.returns _
  · exact (hs.act _).returns _
  · exact (hs.returns _).setLimits mx mn
  · rw [receiveEvent_heightReading]
    split
    · exact hs.returns _
    · exact BoundaryInv.positionUpdate h ((hs.returns _).act _)

/-! ## Framing -/

protected theorem BoundaryInv.feed (bs : List Byte) (hs : BoundaryInv s) : BoundaryInv (feed bs s) :=
  hs.of_sameMotion ⟨by simp, by simp, by simp, by simp, by simp, by simp⟩ (feed_buf_wf bs s)
    (by simpa using hs.limitsTogether) (by simp)

protected theorem BoundaryInv.nextFrame (hs : BoundaryInv s) : BoundaryInv (nextFrame s).2 :=
  hs.of_sameMotion ⟨by simp, by simp, by simp, by simp, by simp, by simp⟩
    (Memory.wf_of_length_le hs.bufFits (nextFrame_length_le s)) (by simpa using hs.limitsTogether) (by simp)

protected theorem BoundaryInv.of_drain (hs : BoundaryInv s) (ht : drain s = .next t) : BoundaryInv t :=
  drain_induction (P := fun s o => BoundaryInv s → ∀ t, o = .next t → BoundaryInv t)
    (done := fun _ _ hs _ ht => by cases ht; exact hs.nextFrame)
    (ignored := fun _ _ _ _ ih hs => ih hs.nextFrame)
    (ran := fun _ _ _ _ _ _ hx ih hs => ih (hs.nextFrame.of_exec hx))
    (faulted := fun _ _ _ _ _ _ _ _ _ ht => nomatch ht)
    (refused := fun _ _ _ _ _ _ _ _ _ ht => nomatch ht) s hs t ht

/-! ## Host operations and the step -/

/-- RESET establishes the invariant, from any state (R35). -/
theorem boundaryInv_resetOp (cfg : Cfg) (s : State) : BoundaryInv (resetOp cfg s) := by
  refine ⟨Memory.wf_iff.2 fun _ _ => Nat.zero_le _, rfl, nofun, ?_, nofun, Nat.two_pow_pos _⟩
  unfold OutputsAgree
  split <;> exact ⟨rfl, rfl⟩

protected theorem BoundaryInv.of_runOp {op : HostOp} (hs : BoundaryInv s) (ht : runOp op s = .next t) :
    BoundaryInv t := by
  cases op with
  | feed bs => cases ht; exact (hs.feed bs).returns _
  | nextFrame => cases ht; exact hs.nextFrame.returns _
  | encode c => exact hs.of_exec ht
  | decode f =>
    rw [runOp, decodeFrame] at ht
    split at ht <;> cases ht
    exact hs.reportDecoding _
  | setTarget h => exact hs.of_setTarget ht
  | positionUpdate h => cases ht; exact (hs.positionUpdate h).returns _
  | tick => cases ht; exact hs.tick.returns _
  | ingestBytes bs =>
    obtain ⟨u, hu, hret⟩ := andThen_eq_next ht
    cases hret
    exact ((hs.feed bs).of_drain hu).returns _
  | requestHeight h => exact hs.of_setTarget ht
  | queryLimits => cases ht; exact (hs.act _).returns _
  | queryMemoryAndHeight => cases ht; exact (hs.act _).returns _
  | reset cfg => cases ht; exact boundaryInv_resetOp cfg s

/-- The step lemma. -/
protected theorem BoundaryInv.of_step (hs : BoundaryInv s) (ht : step s = .next t) : BoundaryInv t := by
  cases hp : s.pending with
  | nil =>
    cases (step_nil s hp).symm.trans ht
    exact hs
  | cons op rest =>
    rw [step_cons s hp] at ht
    exact (hs.setPending rest).of_runOp ht

/-- Settles O49: each operation keeps the invariant, so a step does. -/
theorem stepKeepsTheBoundaryState : Obligations.StepKeepsTheBoundaryState := by
  unfold Obligations.StepKeepsTheBoundaryState
  exact fun _ _ hs ht => hs.of_step ht

/-- Settles O50: reset leaves every field at a value that meets its clause. -/
theorem resetMeetsTheBoundaryState : Obligations.ResetMeetsTheBoundaryState := by
  unfold Obligations.ResetMeetsTheBoundaryState
  refine ⟨⟨rfl, rfl, nofun, ?agree, nofun, Nat.two_pow_pos _⟩, ⟨rfl, fun _ => rfl⟩, ?legal⟩
  case agree =>
    unfold OutputsAgree
    split <;> exact ⟨rfl, rfl⟩
  case legal =>
    have hsafe : Config.initial.safeMin.toNat ≤ Config.initial.safeMax.toNat := by
      show Config.openSafeMin.toNat ≤
        (if Config.openSafeMin ≤ Config.openSafeMax then Config.openSafeMax else Config.openSafeMin).toNat
      split
      next hle => exact hle
      next => exact le_rfl
    show (decide (261 ≤ 512) && decide (1 ≤ Config.openUnitScalePred + 1) &&
      decide (Config.initial.safeMin.toNat ≤ Config.initial.safeMax.toNat)) = true
    simp [hsafe]

end Sys2Proof.Machine
end

section
/-! Who writes what (O55, O56), and legal runs (O52): what each operation leaves alone, the pending operations among
it. -/

namespace Sys2Proof.Machine

variable {s t : State} {h c : Height} {op : HostOp} {rest : List HostOp}

/-! ## What the operations leave alone -/

/-- The seek of an accepted target writes motion, outputs, counter and trace only. -/
theorem seekTo_leaves (ht : seekTo c h s = .next t) :
    t.cfg = s.cfg ∧ t.buf = s.buf ∧ t.currentHeight = s.currentHeight ∧ t.maxHeight = s.maxHeight ∧
      t.minHeight = s.minHeight ∧ t.targetHeight = s.targetHeight ∧ t.pending = s.pending := by
  obtain e | ⟨-, e⟩ | ⟨d, -, e⟩ | ⟨d, -, -, e⟩ | ⟨-, e⟩ := seekTo_cases s c h <;>
    cases e.symm.trans ht
  all_goals simp

/-- SET_TARGET also writes the result, and the target when it is accepted. -/
theorem setTarget_leaves (ht : setTarget h s = .next t) :
    t.cfg = s.cfg ∧ t.buf = s.buf ∧ t.currentHeight = s.currentHeight ∧ t.maxHeight = s.maxHeight ∧
      t.minHeight = s.minHeight ∧ t.pending = s.pending ∧
      (t.targetHeight ≠ s.targetHeight → t.result = .accepted true) := by
  obtain ⟨-, e⟩ | ⟨-, -, e⟩ | ⟨c, -, -, e⟩ := setTarget_cases s h <;> rw [e] at ht
  · cases ht
    simp
  · cases ht
    simp
  · obtain ⟨u, hu, hret⟩ := andThen_eq_next ht
    cases hret
    obtain ⟨hcfg, hbuf, hheight, hmax, hmin, -, hpending⟩ := seekTo_leaves hu
    exact ⟨hcfg, hbuf, hheight, hmax, hmin, hpending, fun _ => rfl⟩

/-- A drain leaves the configuration, the target and the pending operations alone. -/
theorem drain_leaves (ht : drain s = .next t) :
    t.cfg = s.cfg ∧ t.targetHeight = s.targetHeight ∧ t.pending = s.pending :=
  drain_induction
    (P := fun s o => ∀ t, o = .next t → t.cfg = s.cfg ∧ t.targetHeight = s.targetHeight ∧ t.pending = s.pending)
    (done := fun _ _ _ ht => by cases ht; simp)
    (ignored := fun _ _ _ _ ih t ht => by simpa using ih t ht)
    (ran := fun _ _ _ _ _ _ hx ih t ht => by
      obtain ⟨-, hcfg, htarget, hpending⟩ := exec_leaves _ hx
      simpa [hcfg, htarget, hpending] using ih t ht)
    (faulted := fun _ _ _ _ _ _ _ _ ht => nomatch ht)
    (refused := fun _ _ _ _ _ _ _ _ ht => nomatch ht) s t ht

/-- INGEST_BYTES leaves them alone too. -/
theorem ingestBytes_leaves {bs : List Byte} (ht : ingestBytes bs s = .next t) :
    t.cfg = s.cfg ∧ t.targetHeight = s.targetHeight ∧ t.pending = s.pending := by
  obtain ⟨u, hu, hret⟩ := andThen_eq_next ht
  cases hret
  simpa using drain_leaves hu

/-- A Command's row writes the result alone. -/
theorem exec_toInstr_eq_next {c : Command} (ht : exec c.toInstr s = .next t) : ∃ r, t = s.returns r := by
  cases (exec_toInstr c s).symm.trans ht
  exact ⟨_, rfl⟩

/-- DECODE writes the trace and the result alone. -/
theorem decodeFrame_eq_next {f : Frame} (ht : decodeFrame f s = .next t) :
    ∃ tr r, t = { s with trace := tr, result := r } := by
  unfold decodeFrame at ht
  split at ht <;> cases ht
  cases telemetryOf f with
  | event e => exact ⟨_, _, rfl⟩
  | underflow cid n => exact ⟨_, _, rfl⟩
  | nothing => exact ⟨_, _, rfl⟩

/-! ## Who writes what -/

/-- Settles O55: for each operation, the fields it leaves alone. -/
theorem eachFieldHasItsWriters : Obligations.EachFieldHasItsWriters := by
  unfold Obligations.EachFieldHasItsWriters
  intro s t op rest hp ht
  rw [step_cons s hp] at ht
  cases op with
  | feed bs => cases ht; simp
  | nextFrame => cases ht; simp
  | encode c =>
    obtain ⟨r, rfl⟩ := exec_toInstr_eq_next ht
    simp
  | decode f =>
    obtain ⟨tr, r, rfl⟩ := decodeFrame_eq_next ht
    simp
  | setTarget h =>
    obtain ⟨hcfg, hbuf, hheight, hmax, hmin, hpending, hacc⟩ := setTarget_leaves ht
    simp_all
  | positionUpdate h => cases ht; simp
  | tick =>
    cases ht
    cases he : s.cfg.evalOnTick with
    | true => simp
    | false => simp [tick_of_not_evalOnTick (s := s.setPending rest) he]
  | ingestBytes bs =>
    obtain ⟨hcfg, hgoal, hpending⟩ := ingestBytes_leaves ht
    simp [hcfg, hgoal, hpending]
  | requestHeight h =>
    obtain ⟨hcfg, hbuf, hheight, hmax, hmin, hpending, hacc⟩ := setTarget_leaves ht
    simp_all
  | queryLimits => cases ht; simp
  | queryMemoryAndHeight => cases ht; simp
  | reset cfg => cases ht; simp [resetOp]

/-- The step takes the first pending operation. -/
theorem step_pending (ht : step s = .next t) : t.pending = s.pending.tail := by
  cases hp : s.pending with
  | nil =>
    cases (step_nil s hp).symm.trans ht
    exact hp
  | cons op rest => exact (eachFieldHasItsWriters s t op rest hp ht).1

/-! ## Legal runs -/

/-- Under the invariant a legal operation is neither of the two stops. -/
theorem exists_step_eq_next (hs : BoundaryInv s) (hlegal : ∀ op ∈ s.pending, legalOp op = true) :
    ∃ t, step s = .next t := by
  cases hstep : step s with
  | next t => exact ⟨t, rfl⟩
  | fault r =>
    obtain ⟨-, h, rest, -, hm, -⟩ := (step_eq_fault_iff r).1 hstep
    exact absurd hm hs.notStopping
  | refused r =>
    obtain ⟨-, f, rest, hp, hwf⟩ := (step_eq_refused_iff r).1 hstep
    have hlegal : f.wf = true := hlegal (.decode f) (by simp [hp])
    simp [hwf] at hlegal

/-- A legal run goes on: after each step the invariant, the trace's safety and the legality of what is pending hold. -/
theorem safeRun_of_legal (k : Nat) : ∀ s : State, BoundaryInv s → TraceSafe s →
    (∀ op ∈ s.pending, legalOp op = true) → SafeRun k s := by
  induction k with
  | zero => exact fun s hs htr _ => ⟨hs, htr⟩
  | succ k ih =>
    intro s hs htr hlegal
    obtain ⟨t, ht⟩ := exists_step_eq_next hs hlegal
    have hrest : ∀ op ∈ t.pending, legalOp op = true := fun op hop =>
      hlegal op (List.mem_of_mem_tail (step_pending ht ▸ hop))
    exact ⟨hs, htr, t, ht, ih t (hs.of_step ht) (outputsNeverBothAsserted s t hs htr ht).1 hrest⟩

/-- Settles O52: progress and preservation, by induction on the number of steps. -/
theorem legalRunsNeverStop : Obligations.LegalRunsNeverStop := by
  unfold Obligations.LegalRunsNeverStop
  exact fun s hs htr hlegal k => safeRun_of_legal k s hs htr hlegal

/-! ## The current height -/

/-- No instruction makes a known height unknown. -/
theorem exec_currentHeight_ne_none {i : Instr} (hc : s.currentHeight ≠ none) (ht : exec i s = .next t) :
    t.currentHeight ≠ none := by
  obtain ⟨r, rfl⟩ | ⟨cid, n, rfl⟩ | ⟨mx, mn, -, rfl⟩ | ⟨h, extra, -, rfl⟩ := exec_cases ht
  · exact hc
  · simpa using hc
  · exact hc
  · simp

/-- Nor does a drain. -/
theorem drain_currentHeight_ne_none (hc : s.currentHeight ≠ none) (ht : drain s = .next t) :
    t.currentHeight ≠ none :=
  drain_induction (P := fun s o => s.currentHeight ≠ none → ∀ t, o = .next t → t.currentHeight ≠ none)
    (done := fun _ _ hc _ ht => by cases ht; simpa using hc)
    (ignored := fun _ _ _ _ ih hc => ih (by simpa using hc))
    (ran := fun _ _ _ _ _ _ hx ih hc => ih (exec_currentHeight_ne_none (by simpa using hc) hx))
    (faulted := fun _ _ _ _ _ _ _ _ _ ht => nomatch ht)
    (refused := fun _ _ _ _ _ _ _ _ _ ht => nomatch ht) s hc t ht

/-- No step but RESET makes a known height unknown: of the other writers INGEST_BYTES drains, and POSITION_UPDATE gives
a height. -/
theorem step_currentHeight_ne_none (ht : step s = .next t) (hc : s.currentHeight ≠ none)
    (hreset : ∀ cfg rest, s.pending ≠ .reset cfg :: rest) : t.currentHeight ≠ none := by
  cases hp : s.pending with
  | nil =>
    cases (step_nil s hp).symm.trans ht
    exact hc
  | cons op rest =>
    obtain ⟨-, -, -, hwriters, -⟩ := eachFieldHasItsWriters s t op rest hp ht
    by_cases hsame : t.currentHeight = s.currentHeight
    · rwa [hsame]
    · rw [step_cons s hp] at ht
      obtain ⟨cfg, rfl⟩ | ⟨bs, rfl⟩ | ⟨h, rfl⟩ := hwriters hsame
      · exact absurd hp (hreset cfg rest)
      · obtain ⟨u, hu, hret⟩ := andThen_eq_next ht
        cases hret
        exact drain_currentHeight_ne_none (t := u) (s := feed bs (s.setPending rest)) (by simpa using hc) hu
      · cases ht
        simp

/-- Settles O56: unknown after reset, known for good once known, and the height received last. -/
theorem currentHeightStaysKnown : Obligations.CurrentHeightStaysKnown := by
  unfold Obligations.CurrentHeightStaysKnown
  exact ⟨rfl, fun _ _ => step_currentHeight_ne_none,
    fun s h _ => ⟨_, rfl, receiveEvent_heightReading_currentHeight h s⟩⟩

end Sys2Proof.Machine
end

section
/-! What a step may do on the ports (O57): each operation keeps the configuration and adds only actions its strategy
admits. -/

namespace Sys2Proof.Machine

variable {s t u : State} {h c : Height} {cfg : Cfg} {a : Action}

/-- An action the strategy admits (R184, R188, R189, R241): output writes under `Outputs`; a frame that is ENCODE of its
Command, never GoToHeight's, and under `Outputs` only a query's; anything that reaches neither port. -/
def Admits (cfg : Cfg) : Action → Prop
  | .set _ _ => cfg.strategy = .outputs
  | .emit c bs =>
    bs = encodeCommand cfg.ids c ∧ (∀ h, c ≠ .goToHeight h) ∧
      (cfg.strategy = .outputs → c = .queryLimits ∨ c = .queryMemoryAndHeight)
  | .publish _ => True
  | .enter _ => True
  | .log _ => True

/-- From `s` to `t` the configuration is kept and the trace grows by admitted actions. -/
def Follows (s t : State) : Prop :=
  t.cfg = s.cfg ∧ ∃ acts, t.trace = s.trace ++ acts ∧ ∀ a ∈ acts, Admits s.cfg a

theorem Follows.trans (hst : Follows s t) (htu : Follows t u) : Follows s u := by
  obtain ⟨hcfg, acts, htr, hadm⟩ := hst
  obtain ⟨hcfg', acts', htr', hadm'⟩ := htu
  refine ⟨hcfg'.trans hcfg, acts ++ acts', by rw [htr', htr, List.append_assoc], fun a ha => ?_⟩
  obtain ha | ha := List.mem_append.1 ha
  · exact hadm a ha
  · exact hcfg ▸ hadm' a ha

/-- An operation that touches neither configuration nor trace. -/
theorem Follows.of_eq (hcfg : t.cfg = s.cfg) (htr : t.trace = s.trace) : Follows s t :=
  ⟨hcfg, [], by rw [htr, List.append_nil], nofun⟩

/-- One admitted action. -/
theorem Follows.of_action (hcfg : t.cfg = s.cfg) (htr : t.trace = s.trace ++ [a]) (ha : Admits s.cfg a) :
    Follows s t :=
  ⟨hcfg, [a], htr, fun b hb => by rwa [List.mem_singleton.1 hb]⟩

theorem follows_returns (r : OpResult) (s : State) : Follows s (s.returns r) := .of_eq rfl rfl

theorem follows_publish (h : Height) (s : State) : Follows s (publish h s) :=
  .of_action (a := .publish h) rfl rfl trivial

theorem Follows.returns (r : OpResult) (hst : Follows s t) : Follows s (t.returns r) :=
  hst.trans (follows_returns r t)

/-! ## The sequences of MotionController -/

theorem admits_of_mem_driveActions {d : Direction} (ha : a ∈ driveActions cfg d) : Admits cfg a := by
  cases hst : cfg.strategy with
  | command =>
    simp only [driveActions, hst, List.mem_singleton] at ha
    subst ha
    exact ⟨rfl, by cases d <;> exact nofun, by simp [hst]⟩
  | outputs =>
    simp only [driveActions, hst, List.mem_cons, List.not_mem_nil, or_false] at ha
    rcases ha with rfl | rfl <;> exact hst

theorem admits_of_mem_stopActions (ha : a ∈ stopActions cfg) : Admits cfg a := by
  cases hst : cfg.strategy with
  | command =>
    simp only [stopActions, hst, List.mem_cons, List.not_mem_nil, or_false] at ha
    rcases ha with rfl | rfl | rfl
    · trivial
    · exact ⟨rfl, nofun, by simp [hst]⟩
    · trivial
  | outputs =>
    simp only [stopActions, hst, List.mem_cons, List.not_mem_nil, or_false] at ha
    rcases ha with rfl | rfl | rfl | rfl
    · trivial
    · exact hst
    · exact hst
    · trivial

theorem admits_of_mem_reverseActions {d : Direction} (ha : a ∈ reverseActions cfg d) : Admits cfg a := by
  cases hst : cfg.strategy with
  | command =>
    simp only [reverseActions, hst, List.mem_cons] at ha
    rcases ha with rfl | rfl | ha
    · exact ⟨rfl, nofun, by simp [hst]⟩
    · trivial
    · exact admits_of_mem_driveActions ha
  | outputs =>
    simp only [reverseActions, hst, List.mem_cons] at ha
    rcases ha with rfl | ha
    · trivial
    · exact admits_of_mem_driveActions ha

theorem follows_evaluate (s : State) : Follows s (evaluate s) := by
  obtain ⟨acts, htr, hacts⟩ := exists_evaluate_trace s
  refine ⟨evaluate_cfg s, acts, htr, fun a ha => ?_⟩
  obtain rfl | rfl | ⟨-, d, rfl⟩ := hacts
  · exact absurd ha List.not_mem_nil
  · exact admits_of_mem_stopActions ha
  · exact admits_of_mem_driveActions ha

theorem follows_positionUpdate (h : Height) (s : State) : Follows s (positionUpdate h s) := by
  unfold positionUpdate
  split
  · exact .of_eq rfl rfl
  · exact follows_evaluate (s.setCurrentHeight (some h))

theorem follows_tick (s : State) : Follows s (tick s) := by
  have hcount : Follows s (countTick s) := .of_eq (countTick_cfg s) (countTick_trace s)
  unfold tick
  split
  · exact hcount.trans (follows_evaluate _)
  · exact hcount

theorem Follows.of_seekTo (ht : seekTo c h s = .next t) : Follows s t := by
  obtain e | ⟨-, e⟩ | ⟨d, -, e⟩ | ⟨d, -, -, e⟩ | ⟨-, e⟩ := seekTo_cases s c h <;> cases e.symm.trans ht
  · exact .of_eq rfl rfl
  · rw [drive_enter_eq]
    refine ⟨rfl, _, rfl, fun a ha => ?_⟩
    obtain rfl | ha := List.mem_cons.1 ha
    · trivial
    · exact admits_of_mem_driveActions ha
  · rw [stopSeq_eq]
    exact ⟨rfl, _, rfl, fun _ => admits_of_mem_stopActions⟩
  · rw [reverse_eq]
    exact ⟨rfl, _, rfl, fun _ => admits_of_mem_reverseActions⟩

theorem follows_raiseError (e : ErrorRecord) (s : State) : Follows s (raiseError e s) :=
  .of_action (raiseError_cfg s e) (raiseError_trace s e) trivial

theorem Follows.of_setTarget (ht : setTarget h s = .next t) : Follows s t := by
  obtain ⟨-, e⟩ | ⟨-, -, e⟩ | ⟨c, -, -, e⟩ := setTarget_cases s h <;> rw [e] at ht
  · cases ht
    exact (follows_raiseError _ s).returns _
  · cases ht
    exact (follows_raiseError _ s).returns _
  · obtain ⟨u, hu, hret⟩ := andThen_eq_next ht
    cases hret
    exact (Follows.of_seekTo (s := s.setTargetHeight (some h)) hu).returns _

/-! ## Instructions, framing and the host operations -/

theorem Follows.of_exec {i : Instr} (ht : exec i s = .next t) : Follows s t := by
  obtain ⟨r, rfl⟩ | ⟨cid, n, rfl⟩ | ⟨mx, mn, -, rfl⟩ | ⟨h, extra, -, rfl⟩ := exec_cases ht
  · exact .of_eq rfl rfl
  · exact (follows_raiseError _ s).returns _
  · exact .of_eq rfl rfl
  · rw [receiveEvent_heightReading]
    split
    · exact .of_eq rfl rfl
    · exact (follows_returns _ s).trans ((follows_publish h _).trans (follows_positionUpdate h _))

theorem follows_feed (bs : List Byte) (s : State) : Follows s (feed bs s) := by
  obtain ⟨-, e⟩ | ⟨-, e⟩ := feed_cases bs s <;> rw [e]
  · exact .of_eq rfl rfl
  · exact follows_raiseError _ (s.setBuf (s.buf ++ bs))

theorem follows_nextFrame (s : State) : Follows s (nextFrame s).2 :=
  nextFrame_induction (P := fun s r => Follows s r.2)
    (noMarker := fun _ _ => .of_eq rfl rfl)
    (noEnd := fun _ _ _ _ => .of_eq rfl rfl)
    (found := fun _ _ _ _ _ _ => .of_eq rfl rfl)
    (failed := fun s i _ _ _ _ _ ih => (follows_raiseError _ (s.consume i)).trans ih) s

theorem Follows.of_drain (ht : drain s = .next t) : Follows s t :=
  drain_induction (P := fun s o => ∀ t, o = .next t → Follows s t)
    (done := fun s _ _ ht => by cases ht; exact follows_nextFrame s)
    (ignored := fun s _ _ _ ih t ht => (follows_nextFrame s).trans (ih t ht))
    (ran := fun s _ _ _ _ _ hx ih t ht => ((follows_nextFrame s).trans (.of_exec hx)).trans (ih t ht))
    (faulted := fun _ _ _ _ _ _ _ _ ht => nomatch ht)
    (refused := fun _ _ _ _ _ _ _ _ ht => nomatch ht) s t ht

theorem Follows.of_decodeFrame {f : Frame} (ht : decodeFrame f s = .next t) : Follows s t := by
  unfold decodeFrame at ht
  split at ht <;> cases ht
  cases telemetryOf f with
  | event e => exact .of_eq rfl rfl
  | underflow cid n => exact (follows_raiseError _ s).returns _
  | nothing => exact .of_eq rfl rfl

theorem Follows.of_runOp {op : HostOp} (hop : ∀ cfg, op ≠ .reset cfg) (ht : runOp op s = .next t) : Follows s t := by
  cases op with
  | feed bs => cases ht; exact (follows_feed bs s).returns _
  | nextFrame => cases ht; exact (follows_nextFrame s).returns _
  | encode c => exact .of_exec ht
  | decode f => exact .of_decodeFrame ht
  | setTarget h => exact .of_setTarget ht
  | positionUpdate h => cases ht; exact (follows_positionUpdate h s).returns _
  | tick => cases ht; exact (follows_tick s).returns _
  | ingestBytes bs =>
    obtain ⟨u, hu, hret⟩ := andThen_eq_next ht
    cases hret
    exact ((follows_feed bs s).trans (.of_drain hu)).returns _
  | requestHeight h => exact .of_setTarget ht
  | queryLimits => cases ht; exact .of_action rfl rfl ⟨rfl, nofun, fun _ => .inl rfl⟩
  | queryMemoryAndHeight => cases ht; exact .of_action rfl rfl ⟨rfl, nofun, fun _ => .inr rfl⟩
  | reset cfg => exact absurd rfl (hop cfg)

/-- Settles O57: every action a step adds is admitted. -/
theorem portsFollowTheStrategy : Obligations.PortsFollowTheStrategy := by
  unfold Obligations.PortsFollowTheStrategy
  intro s t ht hreset
  have hfollows : Follows s t := by
    cases hp : s.pending with
    | nil =>
      cases (step_nil s hp).symm.trans ht
      exact .of_eq rfl rfl
    | cons op rest =>
      rw [step_cons s hp] at ht
      exact Follows.of_runOp (s := s.setPending rest) (fun cfg hop => hreset cfg rest (hop ▸ hp)) ht
  obtain ⟨-, acts, htr, hadm⟩ := hfollows
  exact ⟨acts, htr, fun d b hmem => hadm _ hmem, fun c bs hmem => hadm _ hmem⟩

end Sys2Proof.Machine
end

section
/-! The transitions of `motion` (O54): for each operation that writes it, the change it can make and the condition of
that change. -/

namespace Sys2Proof.Machine

variable {s t u : State} {h c : Height}

/-! ## SET_TARGET -/

/-- Two directions that differ are opposite. -/
theorem eq_opp_of_ne {d d' : Direction} (hne : d ≠ d') : d' = d.opp := by
  cases d <;> cases d'
  · exact absurd rfl hne
  · rfl
  · rfl
  · exact absurd rfl hne

/-- The seek of an accepted target keeps motion, ends a seek in band, or out of band engages the direction of the target
from `Idle` or from the opposite seek (R186). -/
theorem seekTo_motion (ht : seekTo c h s = .next t) :
    t.motion = s.motion ∨
    (∃ d, s.motion = .seeking d ∧ t.motion = .idle ∧ inBand s.cfg c h = true) ∨
    ((s.motion = .idle ∨ s.motion = .seeking (dir c h).opp) ∧ t.motion = .seeking (dir c h) ∧
      inBand s.cfg c h = false) := by
  cases hm : s.motion with
  | idle =>
    cases hb : inBand s.cfg c h with
    | true =>
      cases (seekTo_idle_inBand hm hb).symm.trans ht
      exact .inl hm
    | false =>
      cases (seekTo_idle_outOfBand hm hb).symm.trans ht
      exact .inr (.inr ⟨.inl rfl, by simp, rfl⟩)
  | seeking d =>
    cases hb : inBand s.cfg c h with
    | true =>
      cases (seekTo_seeking_inBand hm hb).symm.trans ht
      exact .inr (.inl ⟨d, rfl, rfl, rfl⟩)
    | false =>
      by_cases hd : dir c h = d
      · cases (seekTo_sameSide hm hb hd).symm.trans ht
        exact .inl hm
      · cases (seekTo_otherSide hm hb hd).symm.trans ht
        exact .inr (.inr ⟨.inr (by rw [eq_opp_of_ne hd]), by simp, rfl⟩)
  | stopping => cases (seekTo_eq_of_stopping hm).symm.trans ht

/-- SET_TARGET changes motion only by accepting the target, and then as its seek does. -/
theorem setTarget_motion (ht : setTarget h s = .next t) (hne : t.motion ≠ s.motion) :
    ∃ c, s.currentHeight = some c ∧ t.result = .accepted true ∧ t.targetHeight = some h ∧
      ((∃ d, s.motion = .seeking d ∧ t.motion = .idle ∧ inBand s.cfg c h = true) ∨
        ((s.motion = .idle ∨ s.motion = .seeking (dir c h).opp) ∧ t.motion = .seeking (dir c h) ∧
          inBand s.cfg c h = false)) := by
  obtain ⟨-, e⟩ | ⟨-, -, e⟩ | ⟨c, -, hc, e⟩ := setTarget_cases s h <;> rw [e] at ht
  · cases ht
    exact absurd (by simp) hne
  · cases ht
    exact absurd (by simp) hne
  · obtain ⟨u, hu, hret⟩ := andThen_eq_next ht
    cases hret
    obtain ⟨-, -, -, -, -, htarget, -⟩ := seekTo_leaves hu
    exact ⟨c, hc, rfl, htarget, (seekTo_motion hu).resolve_left hne⟩

/-! ## Evaluation -/

/-- A position update that changes motion records a new height, which ends a seek in band of its target. -/
theorem positionUpdate_motion (hne : (positionUpdate h s).motion ≠ s.motion) :
    (positionUpdate h s).motion = .idle ∧ s.currentHeight ≠ some h ∧
      ∃ d g, s.motion = .seeking d ∧ s.targetHeight = some g ∧ inBand s.cfg h g = true := by
  have hc : s.currentHeight ≠ some h := fun hc => hne (by rw [positionUpdate, if_pos hc])
  rw [positionUpdate_of_changed h hc] at hne ⊢
  obtain ⟨hidle, d, c, g, hm, hheight, hg, hband⟩ := evaluationNeverStopsOutOfBand.2 _ hne
  cases hheight
  exact ⟨hidle, hc, d, g, hm, hg, hband⟩

/-- A tick that changes motion evaluates a seek whose heights are in band. -/
theorem tick_motion (he : s.cfg.evalOnTick = true) (hne : (tick s).motion ≠ s.motion) :
    (tick s).motion = .idle ∧
      ∃ d c g, s.motion = .seeking d ∧ s.currentHeight = some c ∧ s.targetHeight = some g ∧
        inBand s.cfg c g = true := by
  rw [tick_of_evalOnTick he, ← countTick_motion s] at hne
  obtain ⟨hidle, d, c, g, hm, hc, hg, hband⟩ := evaluationNeverStopsOutOfBand.2 _ hne
  rw [countTick_motion] at hm
  rw [countTick_currentHeight] at hc
  rw [countTick_targetHeight] at hg
  rw [countTick_cfg] at hband
  exact ⟨tick_of_evalOnTick he ▸ hidle, d, c, g, hm, hc, hg, hband⟩

/-! ## INGEST_BYTES -/

/-- Between `s` and `t` motion is kept, or a seek ends in `Idle` at a height published in band of the target. -/
def StopsAtPublished (s t : State) : Prop :=
  t.cfg = s.cfg ∧ t.targetHeight = s.targetHeight ∧ ∃ acts, t.trace = s.trace ++ acts ∧
    (t.motion = s.motion ∨ ∃ d g h, s.motion = .seeking d ∧ t.motion = .idle ∧ s.targetHeight = some g ∧
      h ∈ publishedHeights acts ∧ inBand s.cfg h g = true)

/-- An operation that keeps motion and only adds to the trace. -/
theorem Follows.stopsAtPublished (hst : Follows s t) (htarget : t.targetHeight = s.targetHeight)
    (hm : t.motion = s.motion) : StopsAtPublished s t := by
  obtain ⟨hcfg, acts, htr, -⟩ := hst
  exact ⟨hcfg, htarget, acts, htr, .inl hm⟩

/-- One part after another: a seek ends in at most one of them. -/
theorem StopsAtPublished.trans (hst : StopsAtPublished s t) (htu : StopsAtPublished t u) : StopsAtPublished s u := by
  obtain ⟨hcfg, hgoal, acts, htr, hfirst⟩ := hst
  obtain ⟨hcfg', hgoal', acts', htr', hsecond⟩ := htu
  rw [hcfg, hgoal] at hsecond
  refine ⟨hcfg'.trans hcfg, hgoal'.trans hgoal, acts ++ acts', by rw [htr', htr, List.append_assoc], ?_⟩
  rw [publishedHeights_append]
  obtain hm | ⟨d, g, h, hm, hidle, hg, hmem, hband⟩ := hfirst
  · obtain hm' | ⟨d, g, h, hm', hidle, hg, hmem, hband⟩ := hsecond
    · exact .inl (hm'.trans hm)
    · exact .inr ⟨d, g, h, hm ▸ hm', hidle, hg, List.mem_append_right _ hmem, hband⟩
  · obtain hm' | ⟨d', g', h', hm', -⟩ := hsecond
    · exact .inr ⟨d, g, h, hm, hm'.trans hidle, hg, List.mem_append_left _ hmem, hband⟩
    · cases hidle.symm.trans hm'

/-- A received height that changes motion was published and is in band. -/
theorem stopsAtPublished_receiveEvent (h : Height) (s : State) :
    StopsAtPublished s (receiveEvent (.heightReading h) s) := by
  by_cases hc : s.currentHeight = some h
  · rw [receiveEvent_heightReading, if_pos hc]
    exact (follows_returns _ s).stopsAtPublished rfl rfl
  · obtain ⟨acts, htr, -⟩ := exists_receiveEvent_heightReading_trace hc
    refine ⟨receiveEvent_cfg s _, receiveEvent_targetHeight s _, _, htr, ?_⟩
    by_cases hm : (receiveEvent (.heightReading h) s).motion = s.motion
    · exact .inl hm
    · rw [receiveEvent_heightReading_of_changed hc] at hm ⊢
      obtain ⟨hidle, d, c, g, hseek, hheight, hg, hband⟩ := evaluationNeverStopsOutOfBand.2 (recordReading h s) hm
      cases hheight
      exact .inr ⟨d, g, h, hseek, hidle, hg, List.mem_cons_self, hband⟩

theorem StopsAtPublished.of_exec {i : Instr} (ht : exec i s = .next t) : StopsAtPublished s t := by
  have hfollows : Follows s t := .of_exec ht
  obtain ⟨r, rfl⟩ | ⟨cid, n, rfl⟩ | ⟨mx, mn, -, rfl⟩ | ⟨h, extra, -, rfl⟩ := exec_cases ht
  · exact hfollows.stopsAtPublished rfl rfl
  · exact hfollows.stopsAtPublished (by simp) (by simp)
  · exact hfollows.stopsAtPublished rfl rfl
  · exact stopsAtPublished_receiveEvent h s

theorem stopsAtPublished_nextFrame (s : State) : StopsAtPublished s (nextFrame s).2 :=
  (follows_nextFrame s).stopsAtPublished (nextFrame_targetHeight s) (nextFrame_motion s)

theorem StopsAtPublished.of_drain (ht : drain s = .next t) : StopsAtPublished s t :=
  drain_induction (P := fun s o => ∀ t, o = .next t → StopsAtPublished s t)
    (done := fun s _ _ ht => by cases ht; exact stopsAtPublished_nextFrame s)
    (ignored := fun s _ _ _ ih t ht => (stopsAtPublished_nextFrame s).trans (ih t ht))
    (ran := fun s _ _ _ _ _ hx ih t ht => ((stopsAtPublished_nextFrame s).trans (.of_exec hx)).trans (ih t ht))
    (faulted := fun _ _ _ _ _ _ _ _ ht => nomatch ht)
    (refused := fun _ _ _ _ _ _ _ _ ht => nomatch ht) s t ht

/-- INGEST_BYTES answers the published heights, and a change of motion is a stop at one of them. -/
theorem ingestBytes_motion {bs : List Byte} (ht : ingestBytes bs s = .next t) (hne : t.motion ≠ s.motion) :
    ∃ d g hs h, s.motion = .seeking d ∧ t.motion = .idle ∧ s.targetHeight = some g ∧ t.result = .published hs ∧
      h ∈ hs ∧ inBand s.cfg h g = true := by
  obtain ⟨u, hu, hret⟩ := andThen_eq_next ht
  cases hret
  have hfed : StopsAtPublished s (feed bs s) :=
    (follows_feed bs s).stopsAtPublished (feed_targetHeight bs s) (feed_motion bs s)
  obtain ⟨-, -, acts, htr, hm⟩ := hfed.trans (.of_drain hu)
  obtain ⟨d, g, h, hm, hidle, hg, hmem, hband⟩ := hm.resolve_left hne
  exact ⟨d, g, _, h, hm, hidle, hg, rfl, by rwa [publishedSince, htr, List.drop_left], hband⟩

/-! ## The step -/

/-- Settles O54: of the operations that write motion, each changes it as listed. -/
theorem motionChangesOnlyAsListed : Obligations.MotionChangesOnlyAsListed := by
  unfold Obligations.MotionChangesOnlyAsListed
  intro s t hs ht
  dsimp only
  by_cases hne : t.motion = s.motion
  · exact .inl hne
  refine .inr ?_
  cases hp : s.pending with
  | nil =>
    cases (step_nil s hp).symm.trans ht
    exact absurd rfl hne
  | cons op rest =>
    obtain ⟨-, -, -, -, -, -, hwriters, -⟩ := eachFieldHasItsWriters s t op rest hp ht
    rw [step_cons s hp] at ht
    obtain ⟨cfg, rfl⟩ | ⟨bs, rfl⟩ | ⟨h, hop⟩ | ⟨h, rfl⟩ | ⟨rfl, he⟩ := hwriters (.inl hne)
    · cases ht
      cases hm : s.motion with
      | idle => exact absurd hm.symm hne
      | seeking d => exact .inl ⟨d, rfl, rfl, .inl ⟨cfg, rest, rfl⟩⟩
      | stopping => exact absurd hm hs.notStopping
    · obtain ⟨d, g, hs, h, hm, hidle, hg, hres, hmem, hband⟩ := ingestBytes_motion (s := s.setPending rest) ht hne
      exact .inl ⟨d, hm, hidle, .inr (.inr ⟨g, hg, .inr (.inr ⟨bs, rest, hs, h, rfl, hres, hmem, hband⟩)⟩)⟩
    · have hset : setTarget h (s.setPending rest) = .next t := by obtain rfl | rfl := hop <;> exact ht
      have hasked : ∃ rest', op :: rest = .setTarget h :: rest' ∨ op :: rest = .requestHeight h :: rest' :=
        ⟨rest, by simpa using hop⟩
      obtain ⟨c, hc, hres, hgoal, ⟨d, hm, hidle, hband⟩ | ⟨hm, hseek, hband⟩⟩ := setTarget_motion hset hne
      · exact .inl ⟨d, hm, hidle, .inr (.inl ⟨h, c, ⟨hasked, hres, hgoal, hc⟩, hband⟩)⟩
      · exact .inr ⟨_, h, c, hm, hseek, ⟨hasked, hres, hgoal, hc⟩, hband, rfl⟩
    · cases ht
      obtain ⟨hidle, hc, d, g, hm, hg, hband⟩ := positionUpdate_motion (s := s.setPending rest) hne
      exact .inl ⟨d, hm, hidle, .inr (.inr ⟨g, hg, .inl ⟨h, rest, rfl, hc, hband⟩⟩)⟩
    · cases ht
      obtain ⟨hidle, d, c, g, hm, hc, hg, hband⟩ := tick_motion (s := s.setPending rest) he hne
      exact .inl ⟨d, hm, hidle, .inr (.inr ⟨g, hg, .inr (.inl ⟨c, rest, rfl, he, hc, hband⟩)⟩)⟩

end Sys2Proof.Machine
end

section
/-! NEXT_FRAME (O8, O20, O21, O23, O24): where the terminator search stops, and what a returned Frame was. -/

namespace Sys2Proof.Machine

variable {s : State} {f : Frame} {b : List Byte}

/-! ## The terminator search (R125) -/

theorem findEndByte_eq_findIdx? (b : List Byte) : findEndByte b = b.findIdx? (· == endByte) := by
  induction b with
  | nil => rfl
  | cons a b ih => simp [findEndByte, List.findIdx?_cons, ih]

theorem findEndByte_eq_some_iff (b : List Byte) (j : Nat) :
    findEndByte b = some j ↔ b[j]? = some endByte ∧ ∀ k, k < j → b[k]? ≠ some endByte := by
  rw [findEndByte_eq_findIdx?, List.findIdx?_eq_some_iff_getElem]
  constructor
  · rintro ⟨hj, hat, hbefore⟩
    refine ⟨List.getElem?_eq_some_iff.2 ⟨hj, by simpa using hat⟩, fun k hk hend => hbefore k hk ?_⟩
    obtain ⟨_, hk'⟩ := List.getElem?_eq_some_iff.1 hend
    simp [hk']
  · rintro ⟨hat, hbefore⟩
    obtain ⟨hj, hat⟩ := List.getElem?_eq_some_iff.1 hat
    refine ⟨hj, by simp [hat], fun k hk hend => hbefore k hk (List.getElem?_eq_some_iff.2 ⟨hk.trans hj, ?_⟩)⟩
    simpa using hend

/-- The terminator is the first end byte past the marker. -/
theorem findEnd_eq_some_iff (b : List Byte) (j : Nat) :
    findEnd b = some j ↔ 2 ≤ j ∧ b[j]? = some endByte ∧ ∀ k, 2 ≤ k → k < j → b[k]? ≠ some endByte := by
  rw [findEnd, Option.map_eq_some_iff]
  constructor
  · rintro ⟨i, hi, rfl⟩
    obtain ⟨hat, hbefore⟩ := (findEndByte_eq_some_iff _ _).1 hi
    rw [List.getElem?_drop, Nat.add_comm] at hat
    refine ⟨Nat.le_add_left _ _, hat, fun k htwo hk => ?_⟩
    have hnot := hbefore (k - 2) (by omega)
    rwa [List.getElem?_drop, Nat.add_sub_of_le htwo] at hnot
  · rintro ⟨htwo, hat, hbefore⟩
    refine ⟨j - 2, (findEndByte_eq_some_iff _ _).2 ⟨?_, fun k hk => ?_⟩, Nat.sub_add_cancel htwo⟩
    · rwa [List.getElem?_drop, Nat.add_sub_of_le htwo]
    · rw [List.getElem?_drop]
      exact hbefore (2 + k) (Nat.le_add_right _ _) (by omega)

/-- There is no terminator exactly when no end byte stands past the marker. -/
theorem findEnd_eq_none_iff (b : List Byte) : findEnd b = none ↔ endByte ∉ b.drop 2 := by
  rw [findEnd, Option.map_eq_none_iff, findEndByte_eq_findIdx?, List.findIdx?_eq_none_iff]
  simp only [beq_eq_false_iff_ne]
  exact ⟨fun hne hmem => hne _ hmem rfl, fun hno x hx hend => hno (hend ▸ hx)⟩

theorem not_mem_drop_two_iff (b : List Byte) : endByte ∉ b.drop 2 ↔ ∀ k, 2 ≤ k → b[k]? ≠ some endByte := by
  rw [List.mem_iff_getElem?, not_exists]
  constructor
  · intro hno k htwo
    have hnot := hno (k - 2)
    rwa [List.getElem?_drop, Nat.add_sub_of_le htwo] at hnot
  · intro hno k
    rw [List.getElem?_drop]
    exact hno (2 + k) (Nat.le_add_right _ _)

/-! ## One round of NEXT_FRAME (R121) -/

/-- Without a marker a trailing half is kept (R123). -/
theorem nextFrame_of_no_marker (hmark : findMarker s.buf = none) :
    nextFrame s = (none, s.setBuf (keepTail s.buf)) := by
  rw [nextFrame_eq, hmark]

/-- With a marker and no terminator the candidate is kept (R125). -/
theorem nextFrame_of_no_end {i : Nat} (hmark : findMarker s.buf = some i) (hend : findEnd (s.buf.drop i) = none) :
    nextFrame s = (none, s.consume i) := by
  rw [nextFrame_eq, hmark]
  simp only [hend]

/-- NEXT_FRAME on a candidate that validates. -/
theorem nextFrame_of_valid {i e : Nat} (hi : findMarker s.buf = some i) (he : findEnd (s.buf.drop i) = some e)
    (hok : validSpan ((s.buf.drop i).take (e + 1)) .incoming = .ok) :
    nextFrame s = (some (readFrame .incoming ((s.buf.drop i).take (e + 1))), (s.consume i).consume (e + 1)) := by
  rw [nextFrame_eq, hi]
  simp only [he, hok]

/-- NEXT_FRAME on a candidate that fails. -/
theorem nextFrame_of_failed {i e : Nat} {why : SpanFault} (hi : findMarker s.buf = some i)
    (he : findEnd (s.buf.drop i) = some e) (hbad : validSpan ((s.buf.drop i).take (e + 1)) .incoming = .bad why) :
    nextFrame s = nextFrame (raiseError (.frameError why) (s.consume i)) := by
  rw [nextFrame_eq, hi]
  simp only [he, hbad]

theorem findMarker_marker_cons (rest : List Byte) : findMarker (0xF2#8 :: 0xF2#8 :: rest) = some 0 := rfl

/-- Settles O20: the search by its index lemma, and the wait by the equation for a candidate without terminator. -/
theorem terminatorSearchFindsTheFirst : Obligations.TerminatorSearchFindsTheFirst := by
  unfold Obligations.TerminatorSearchFindsTheFirst
  refine ⟨findEnd_eq_some_iff, fun b => (findEnd_eq_none_iff b).trans (not_mem_drop_two_iff b), ?_⟩
  intro s garbage rest hmark hbuf hrest
  have hdrop : s.buf.drop garbage.length = 0xF2#8 :: 0xF2#8 :: rest := by
    rw [hbuf, List.append_assoc, List.drop_left]
    rfl
  have hend : findEnd (s.buf.drop garbage.length) = none := by
    rw [hdrop]
    exact (findEnd_eq_none_iff _).2 hrest
  refine ⟨?_, fun more => findMarker_marker_cons (rest ++ more)⟩
  rw [nextFrame_of_no_end hmark hend, State.consume, Memory.consume, hdrop]
  rfl

/-- Settles O21: what `keepTail` keeps in each of the two cases. -/
theorem noMarkerKeepsATrailingHalf : Obligations.NoMarkerKeepsATrailingHalf := by
  unfold Obligations.NoMarkerKeepsATrailingHalf
  constructor
  · intro s b hbuf hmark
    rw [nextFrame_of_no_marker hmark, keepTail, if_pos (by rw [hbuf, List.getLast?_concat])]
    rfl
  · intro s hlast hmark
    rw [nextFrame_of_no_marker hmark, keepTail, if_neg hlast]
    rfl

/-! ## A whole frame is returned -/

theorem noInnerEnd_iff (b : List Byte) : noInnerEnd b = true ↔ endByte ∉ (b.drop 2).dropLast := by
  simp [noInnerEnd]

/-- The bytes of a Frame between marker and end marker. -/
theorem dropLast_drop_two_bytes (f : Frame) :
    (f.bytes.drop 2).dropLast = f.commandId :: f.length :: (f.payload ++ [f.checksum]) := by
  have hsplit : f.bytes.drop 2 = (f.commandId :: f.length :: (f.payload ++ [f.checksum])) ++ [f.endMarker] := by
    simp
  rw [hsplit, List.dropLast_concat]

/-- A valid Frame with no end byte inside ends at its first end byte. -/
theorem findEnd_bytes (hwf : f.wf = true) (hinner : noInnerEnd f.bytes = true) :
    findEnd f.bytes = some (f.bytes.length - 1) := by
  rw [noInnerEnd_iff, dropLast_drop_two_bytes] at hinner
  obtain ⟨-, -, hend⟩ := (Frame.wf_iff f).1 hwf
  have hsplit : f.bytes.drop 2 = (f.commandId :: f.length :: (f.payload ++ [f.checksum])) ++ [endByte] := by
    simp [hend]
  have hnone : List.findIdx? (· == endByte) (f.commandId :: f.length :: (f.payload ++ [f.checksum])) = none :=
    List.findIdx?_eq_none_iff.2 fun x hx => beq_eq_false_iff_ne.2 fun hxe => hinner (hxe ▸ hx)
  rw [findEnd, findEndByte_eq_findIdx?, hsplit, List.findIdx?_append, hnone]
  simp
  omega

/-- NEXT_FRAME on a whole frame at the head of the buffer (R127). -/
theorem nextFrame_of_whole_frame {rest : List Byte} (hwf : f.wf = true) (hm : f.startMarker = .incoming)
    (hinner : noInnerEnd f.bytes = true) (hbuf : s.buf = f.bytes ++ rest) :
    nextFrame s = (some f, s.setBuf rest) := by
  have hmark : findMarker s.buf = some 0 := by
    rw [hbuf]
    exact findMarker_append_of_take rest (by rw [take_two_bytes, hm]; rfl)
  have hend : findEnd s.buf = some (f.bytes.length - 1) := by rw [hbuf, findEnd_append rest (findEnd_bytes hwf hinner)]
  have hlen : f.bytes.length - 1 + 1 = f.bytes.length := Nat.sub_add_cancel (by rw [Frame.bytes_length]; omega)
  have hspan : s.buf.take (f.bytes.length - 1 + 1) = f.bytes := by rw [hbuf, hlen, List.take_left]
  have hok : validSpan f.bytes .incoming = .ok := hm ▸ (validSpan_bytes_iff f).2 hwf
  have hread : readFrame .incoming f.bytes = f := hm ▸ readFrame_bytes hwf
  rw [nextFrame_of_valid (i := 0) hmark hend (by rw [List.drop_zero, hspan, hok]), List.drop_zero, hspan, hread,
    State.consume_zero, State.consume, Memory.consume, hlen, hbuf, List.drop_left]

/-- Settles O23: the Frame's span is the candidate, validates, and is read back. -/
theorem wholeFrameIsReturned : Obligations.WholeFrameIsReturned := by
  unfold Obligations.WholeFrameIsReturned
  exact fun _ _ _ => nextFrame_of_whole_frame

/-! ## A frame returned stood in the buffer -/

/-- Up to its terminator a candidate has no end byte inside. -/
theorem noInnerEnd_take {e : Nat} (he : findEnd b = some e) : noInnerEnd (b.take (e + 1)) = true := by
  obtain ⟨htwo, -, hbefore⟩ := (findEnd_eq_some_iff b e).1 he
  rw [noInnerEnd_iff, List.mem_iff_getElem?]
  rintro ⟨k, hk⟩
  rw [List.getElem?_dropLast, List.length_drop, List.length_take] at hk
  split at hk
  next hlt =>
    rw [List.getElem?_drop, List.getElem?_take_of_lt (by omega)] at hk
    exact hbefore (2 + k) (Nat.le_add_right _ _) (by omega) hk
  next => cases hk

/-- `f` is a valid incoming Frame that stood whole in `b`, ended at its first end byte and had `b'` after it. -/
def StoodBefore (b' : List Byte) (f : Frame) (b : List Byte) : Prop :=
  f.wf = true ∧ f.startMarker = .incoming ∧ noInnerEnd f.bytes = true ∧ ∃ before, b = before ++ f.bytes ++ b'

/-- Whatever is returned stood in the buffer, before what is left of it. -/
theorem nextFrame_sound (h : (nextFrame s).1 = some f) : StoodBefore (nextFrame s).2.buf f s.buf :=
  nextFrame_induction (P := fun s r => ∀ f, r.1 = some f → StoodBefore r.2.buf f s.buf)
    (noMarker := fun _ _ _ hf => nomatch hf)
    (noEnd := fun _ _ _ _ _ hf => nomatch hf)
    (found := fun s i e _ he hok f hf => by
      obtain ⟨f', hwf, hm, hbytes⟩ := exists_frame_of_validSpan hok
      have hread : readFrame .incoming ((s.buf.drop i).take (e + 1)) = f' := by
        rw [← hbytes, ← hm, readFrame_bytes hwf]
      obtain rfl : f' = f := hread.symm.trans (Option.some.inj hf)
      refine ⟨hwf, hm, by rw [hbytes]; exact noInnerEnd_take he, s.buf.take i, ?_⟩
      rw [hbytes, State.consume_buf, State.consume_buf, List.append_assoc, List.take_append_drop,
        List.take_append_drop])
    (failed := fun s i _ _ _ _ _ ih f hf => by
      obtain ⟨hwf, hm, hinner, before, hbuf⟩ := ih f hf
      rw [raiseError_frameError_buf, State.consume_buf, List.drop_drop] at hbuf
      refine ⟨hwf, hm, hinner, s.buf.take (i + 1) ++ before, ?_⟩
      rw [List.append_assoc, List.append_assoc, ← List.append_assoc before, ← hbuf, List.take_append_drop])
    s f h

/-- Settles O24: `nextFrame_sound` as it stands. -/
theorem returnedFrameStoodInTheBuffer : Obligations.ReturnedFrameStoodInTheBuffer := by
  unfold Obligations.ReturnedFrameStoodInTheBuffer
  exact fun _ _ => nextFrame_sound

/-! ## The echo of GoToHeight -/

/-- GoToHeight's frame with the incoming marker (R140). -/
def echoFrame (h : Height) : Frame := frameWith .incoming Config.goToHeightId [highByte h, lowByte h]

theorem echoFrame_bytes (ids : CommandIds) (h : Height) :
    [0xF2#8, 0xF2#8] ++ (encodeCommand ids (.goToHeight h)).drop 2 = (echoFrame h).bytes := by
  rw [encodeCommand_eq_bytes, drop_two_bytes]
  rfl

theorem echoFrame_wf (h : Height) : (echoFrame h).wf = true := commandFrame_wf .incoming _ (.goToHeight h)

/-- No byte of the echo is an end byte exactly when none of height and checksum is. -/
theorem noInnerEnd_echoFrame_iff (h : Height) :
    noInnerEnd (echoFrame h).bytes = true ↔
      h.toNat / 256 ≠ 0x7E ∧ h.toNat % 256 ≠ 0x7E ∧ (29 + h.toNat / 256 + h.toNat % 256) % 256 ≠ 0x7E := by
  have hbyte (n : Nat) : BitVec.ofNat 8 n = endByte ↔ n % 256 = 0x7E := by
    rw [← BitVec.toNat_inj, BitVec.toNat_ofNat]
    rfl
  have hhigh : h.toNat / 256 % 256 = h.toNat / 256 := by
    have := h.isLt
    omega
  rw [noInnerEnd_iff, ← echoFrame_bytes Config.defaultIds, encodeCommand_goToHeight]
  simp [eq_comm (a := endByte), hbyte, hhigh]

/-- A Frame that stands in the echo's bytes is the echo: it can start at the echo's marker only, and the echo's length
byte is then its own. -/
theorem bytes_eq_of_append_eq_echo {h : Height} {before after : List Byte} (hwf : f.wf = true)
    (hm : f.startMarker = .incoming) (hbuf : (echoFrame h).bytes = before ++ f.bytes ++ after) :
    f.bytes = (echoFrame h).bytes := by
  have hlen := congrArg List.length hbuf
  simp only [Frame.bytes_length, List.length_append, echoFrame, frameWith, List.length_cons, List.length_nil] at hlen
  rw [← echoFrame_bytes Config.defaultIds, encodeCommand_goToHeight] at hbuf ⊢
  match before, hbuf with
  | [], hbuf =>
    have hcount : f.length = 2#8 := by
      obtain ⟨-, hcount, -⟩ : 27#8 = f.commandId ∧ 2#8 = f.length ∧ _ := by
        simpa [Frame.bytes, hm, Marker.bytes] using hbuf
      exact hcount.symm
    rw [← length_toNat_of_wf hwf, hcount] at hlen
    obtain rfl : after = [] := List.eq_nil_of_length_eq_zero (by simpa using hlen)
    simpa using hbuf.symm
  | [_], hbuf => simp [Frame.bytes, hm, Marker.bytes] at hbuf
  | [_, _], hbuf => simp [Frame.bytes, hm, Marker.bytes] at hbuf
  | _ :: _ :: _ :: _, _ =>
    simp only [List.length_cons] at hlen
    omega

/-- Settles O8: a frame returned can only be the echo, which then has no end byte inside; and such an echo is returned. -/
theorem echoReturnedUnlessItHoldsAnEndByte : Obligations.EchoReturnedUnlessItHoldsAnEndByte := by
  unfold Obligations.EchoReturnedUnlessItHoldsAnEndByte
  intro s h hbuf
  rw [echoFrame_bytes] at hbuf
  rw [← noInnerEnd_echoFrame_iff]
  constructor
  · intro hsome
    obtain ⟨f, hf⟩ := Option.isSome_iff_exists.1 hsome
    obtain ⟨hwf, hm, hinner, before, hstood⟩ := nextFrame_sound hf
    rwa [bytes_eq_of_append_eq_echo hwf hm (hbuf ▸ hstood)] at hinner
  · intro hinner
    rw [nextFrame_of_whole_frame (rest := []) (echoFrame_wf h) rfl hinner (by rw [hbuf, List.append_nil])]
    rfl

end Sys2Proof.Machine
end

section
/-! What framing leaves (O25, O26): NEXT_FRAME is a function of the buffer's bytes, and drops and logs the same in every
state that holds them; after `None` it waits. -/

namespace Sys2Proof.Machine

variable {s t : State} {f : Frame} {b : Memory}

/-- The state after `k` bytes of the buffer were dropped, with a FrameError logged for each reason. -/
def dropLogging (k : Nat) (whys : List SpanFault) (s : State) : State :=
  { s with buf := s.buf.drop k, trace := s.trace ++ whys.map fun w => .log (.frameError w) }

/-- The kept tail is what is left of the buffer after some drop. -/
theorem exists_keepTail_eq_drop (b : Memory) : ∃ k, k ≤ b.length ∧ keepTail b = b.drop k := by
  unfold keepTail
  split
  next hlast =>
    obtain ⟨a, rfl⟩ := List.getLast?_eq_some_iff.1 hlast
    exact ⟨a.length, by simp, by rw [List.drop_left]⟩
  next => exact ⟨b.length, le_rfl, by rw [List.drop_length]⟩

theorem consume_eq_dropLogging (k : Nat) (s : State) : s.consume k = dropLogging k [] s := by
  simp [dropLogging, State.consume, State.setBuf, Memory.consume]

/-- One failed candidate is one more drop and one more log. -/
theorem dropLogging_raiseError (i k : Nat) (why : SpanFault) (whys : List SpanFault) (s : State) :
    dropLogging k whys (raiseError (.frameError why) (s.consume i)) = dropLogging (i + 1 + k) (why :: whys) s := by
  simp [dropLogging, raiseError, State.act, State.consume, State.setBuf, Memory.consume, List.drop_drop]

/-- What NEXT_FRAME answers, drops and logs depends on the buffer's bytes alone. -/
theorem exists_nextFrame_eq (b : Memory) : ∃ (r : Option Frame) (k : Nat) (whys : List SpanFault),
    k ≤ b.length ∧ whys.length ≤ k ∧ ∀ s : State, s.buf = b → nextFrame s = (r, dropLogging k whys s) := by
  induction hn : b.length using Nat.strong_induction_on generalizing b with
  | _ n ih =>
    subst hn
    cases hi : findMarker b with
    | none =>
      obtain ⟨k, hk, htail⟩ := exists_keepTail_eq_drop b
      refine ⟨none, k, [], hk, Nat.zero_le _, ?_⟩
      rintro s rfl
      rw [nextFrame_of_no_marker hi, htail, ← consume_eq_dropLogging]
      rfl
    | some i =>
      have hlt := findMarker_lt hi
      cases he : findEnd (b.drop i) with
      | none =>
        refine ⟨none, i, [], by omega, Nat.zero_le _, ?_⟩
        rintro s rfl
        rw [nextFrame_of_no_end hi he, consume_eq_dropLogging]
      | some e =>
        have hbounds := (findEnd_bounds he).2
        rw [List.length_drop] at hbounds
        cases hv : validSpan ((b.drop i).take (e + 1)) .incoming with
        | ok =>
          refine ⟨some (readFrame .incoming ((b.drop i).take (e + 1))), i + (e + 1), [], by omega, Nat.zero_le _, ?_⟩
          rintro s rfl
          rw [nextFrame_of_valid hi he hv, State.consume_consume, consume_eq_dropLogging]
        | bad why =>
          obtain ⟨r, k, whys, hk, hwhys, hnext⟩ := ih _ (by rw [List.length_drop]; omega) (b.drop (i + 1)) rfl
          rw [List.length_drop] at hk
          refine ⟨r, i + 1 + k, why :: whys, by omega, by simp only [List.length_cons]; omega, ?_⟩
          rintro s rfl
          rw [nextFrame_of_failed hi he hv, hnext _ (by simp), dropLogging_raiseError]

/-- Settles O25: what is dropped and logged, at the state's own buffer. -/
theorem framingOnlyDropsAPrefix : Obligations.FramingOnlyDropsAPrefix := by
  unfold Obligations.FramingOnlyDropsAPrefix
  intro s
  obtain ⟨r, k, whys, hk, hwhys, hnext⟩ := exists_nextFrame_eq s.buf
  exact ⟨k, whys, hk, hwhys, by rw [hnext s rfl]; rfl⟩

/-- NEXT_FRAME leaves a tail of the buffer. -/
theorem nextFrame_buf_suffix (s : State) : (nextFrame s).2.buf <:+ s.buf := by
  obtain ⟨k, whys, -, -, hnext⟩ := framingOnlyDropsAPrefix s
  rw [hnext]
  exact List.drop_suffix k s.buf

/-- Two states with the same buffer are framed alike. -/
theorem nextFrame_congr (hbuf : t.buf = s.buf) :
    (nextFrame t).1 = (nextFrame s).1 ∧ (nextFrame t).2.buf = (nextFrame s).2.buf := by
  obtain ⟨r, k, whys, -, -, hnext⟩ := exists_nextFrame_eq s.buf
  rw [hnext s rfl, hnext t hbuf]
  exact ⟨rfl, congrArg (List.drop k) hbuf⟩

/-- Framing does not read the result. -/
theorem nextFrame_returns (q : OpResult) (s : State) :
    nextFrame (s.returns q) = ((nextFrame s).1, (nextFrame s).2.returns q) := by
  obtain ⟨r, k, whys, -, -, hnext⟩ := exists_nextFrame_eq s.buf
  rw [hnext s rfl, hnext (s.returns q) rfl]
  rfl

/-! ## Waiting (R125, R129) -/

/-- A buffer NEXT_FRAME waits on: empty, half a marker, or a marker without terminator. -/
def Waiting (b : Memory) : Prop :=
  b = [] ∨ b = [0xF2#8] ∨ ∃ rest, b = 0xF2#8 :: 0xF2#8 :: rest ∧ 0x7E#8 ∉ rest

/-- On such a buffer NEXT_FRAME does nothing. -/
theorem nextFrame_of_waiting (hb : Waiting s.buf) : nextFrame s = (none, s) := by
  obtain hb | hb | ⟨rest, hb, hrest⟩ := hb
  · have htail : keepTail s.buf = s.buf := by rw [hb]; rfl
    rw [nextFrame_of_no_marker (by rw [hb, findMarker_nil]), htail, State.setBuf_self]
  · have htail : keepTail s.buf = s.buf := by rw [hb]; rfl
    rw [nextFrame_of_no_marker (by rw [hb, findMarker_single]), htail, State.setBuf_self]
  · have hmark : findMarker s.buf = some 0 := by rw [hb, findMarker_marker_cons]
    rw [nextFrame_of_no_end hmark ((findEnd_eq_none_iff _).2 (by rw [hb]; exact hrest)), State.consume_zero]

theorem waiting_keepTail (b : Memory) : Waiting (keepTail b) := by
  unfold keepTail
  split
  · exact .inr (.inl rfl)
  · exact .inl rfl

/-- Answering `None`, NEXT_FRAME leaves such a buffer. -/
theorem waiting_of_nextFrame_none (h : (nextFrame s).1 = none) : Waiting (nextFrame s).2.buf :=
  nextFrame_induction (P := fun _ r => r.1 = none → Waiting r.2.buf)
    (noMarker := fun s _ _ => waiting_keepTail s.buf)
    (noEnd := fun s i hi he _ => by
      obtain ⟨rest, hrest⟩ := findMarker_drop hi
      rw [findEnd_eq_none_iff, hrest] at he
      exact .inr (.inr ⟨rest, hrest, he⟩))
    (found := fun _ _ _ _ _ _ h => nomatch h)
    (failed := fun _ _ _ _ _ _ _ ih => ih) s h

/-- Settles O26: what is left is waited on, so asking again changes nothing. -/
theorem afterNoneTheFramerWaits : Obligations.AfterNoneTheFramerWaits := by
  unfold Obligations.AfterNoneTheFramerWaits
  exact fun s h => ⟨waiting_of_nextFrame_none h, nextFrame_of_waiting (waiting_of_nextFrame_none h)⟩

end Sys2Proof.Machine
end

section
/-! Feeding in chunks (O27, O28, O30): what FEED keeps, and that bytes appended later change nothing of what framing did
before. -/

namespace Sys2Proof.Machine

variable {s t : State} {f : Frame} {a b bs more : List Byte}

/-! ## FEED (R120) -/

/-- FEED keeps the last bytes that fit. -/
theorem feed_buf (bs : List Byte) (s : State) :
    (feed bs s).buf = List.drop (Memory.excess s.cfg.bufCap (s.buf ++ bs)) (s.buf ++ bs) := by
  obtain ⟨hfits, e⟩ | ⟨-, e⟩ := feed_cases bs s <;> rw [e]
  · rw [Memory.excess_eq_zero.2 hfits]
    rfl
  · rfl

/-- Dropping the excess before more bytes come drops no other bytes than dropping it after. -/
theorem drop_excess_append (cap : Option Nat) (m bs : Memory) :
    List.drop (Memory.excess cap (m.drop (Memory.excess cap m) ++ bs)) (m.drop (Memory.excess cap m) ++ bs) =
      List.drop (Memory.excess cap (m ++ bs)) (m ++ bs) := by
  cases cap with
  | none => rfl
  | some c =>
    have hle : m.length - c ≤ m.length := Nat.sub_le _ _
    simp only [Memory.excess]
    rw [← List.drop_append_of_le_length hle, List.drop_drop, List.length_drop, List.length_append]
    congr 1
    omega

/-- Feeding one byte first makes no difference to the buffer. -/
theorem feed_feed_singleton_buf (x : Byte) (bs : List Byte) (s : State) :
    (feed bs (feed [x] s)).buf = (feed (x :: bs) s).buf := by
  rw [feed_buf, feed_cfg, feed_buf, feed_buf, drop_excess_append, List.append_assoc, List.singleton_append]

/-- Settles O27: FEED in its two cases, and byte by byte by induction on the chunk. -/
theorem feedDropsTheOldest : Obligations.FeedDropsTheOldest := by
  unfold Obligations.FeedDropsTheOldest
  refine ⟨?bounded, ?unbounded, ?bytewise⟩
  case bounded =>
    intro s bs cap hcap
    obtain ⟨hfits, e⟩ | ⟨hover, e⟩ := feed_cases bs s <;> rw [e]
    · have hzero := Memory.excess_eq_zero.2 hfits
      simp only [hcap, Memory.excess, List.length_append] at hzero
      simp [hzero, State.setBuf]
    · have hpos : Memory.excess s.cfg.bufCap (s.buf ++ bs) ≠ 0 := fun hzero => by
        rw [Memory.excess_eq_zero.1 hzero] at hover
        cases hover
      simp only [hcap, Memory.excess, List.length_append] at hpos
      simp [raiseError, State.act, State.consume, State.setBuf, Memory.consume, Memory.excess, hcap, hpos]
  case unbounded =>
    intro s bs hcap
    obtain ⟨-, e⟩ | ⟨hover, -⟩ := feed_cases bs s
    · exact e
    · rw [hcap] at hover
      cases hover
  case bytewise =>
    intro s bs
    induction bs generalizing s with
    | nil =>
      intro hfits
      rw [feed_buf, List.append_nil, Memory.excess_eq_zero.2 hfits]
      rfl
    | cons x bs ih =>
      intro _
      rw [List.foldl_cons, ← ih (feed [x] s) (by rw [feed_cfg]; exact feed_buf_wf _ _), feed_feed_singleton_buf]

/-- Appending bytes to the buffer: FEED when nothing overflows. -/
def appendBytes (bs : List Byte) (s : State) : State := s.setBuf (s.buf ++ bs)

theorem feed_of_fits (hfits : Memory.wf s.cfg.bufCap (s.buf ++ bs) = true) : feed bs s = appendBytes bs s := by
  obtain ⟨-, e⟩ | ⟨hover, -⟩ := feed_cases bs s
  · exact e
  · rw [hfits] at hover
    cases hover

theorem appendBytes_append (a b : List Byte) (s : State) :
    appendBytes b (appendBytes a s) = appendBytes (a ++ b) s := by
  simp [appendBytes, State.setBuf]

/-! ## Garbage before a marker (R122, R123) -/

/-- Bytes in which no marker starts, whatever follows them. -/
def Garbage (a : List Byte) : Prop := findMarker (a ++ [0xF2#8]) = none

/-- More bytes at the end do not move the marker found. -/
theorem findMarker_append : ∀ {b : List Byte} {i : Nat} (more : List Byte), findMarker b = some i →
    findMarker (b ++ more) = some i
  | [], _, _, h => by cases h
  | [_], _, _, h => by cases h
  | x :: y :: b, i, more, h => by
    rw [List.cons_append, List.cons_append, findMarker_cons_cons]
    rw [findMarker_cons_cons] at h
    split
    next hxy => rwa [if_pos hxy] at h
    next hxy =>
      rw [if_neg hxy] at h
      obtain ⟨j, hj, rfl⟩ := Option.map_eq_some_iff.1 h
      rw [← List.cons_append, findMarker_append more hj, Option.map_some]

/-- The search passes garbage over. -/
theorem findMarker_garbage_append : ∀ {a : List Byte} (b : List Byte), Garbage a →
    findMarker (a ++ b) = (findMarker b).map (· + a.length)
  | [], b, _ => by simp
  | [x], [], _ => rfl
  | [x], y :: b, ha => by
    have hx : x ≠ 0xF2#8 := fun hx => by
      rw [Garbage, hx] at ha
      cases ha
    rw [List.singleton_append, findMarker_cons_cons, if_neg fun h => hx h.1]
    rfl
  | x :: y :: a, b, ha => by
    rw [Garbage, List.cons_append, List.cons_append, findMarker_cons_cons] at ha
    rw [List.cons_append, List.cons_append, findMarker_cons_cons]
    split at ha
    next => cases ha
    next hxy =>
      rw [if_neg hxy, ← List.cons_append, findMarker_garbage_append (a := y :: a) b (Option.map_eq_none_iff.1 ha),
        Option.map_map]
      rfl

theorem Garbage.getLast?_ne (ha : Garbage a) : a.getLast? ≠ some 0xF2#8 := by
  intro hlast
  obtain ⟨a', rfl⟩ := List.getLast?_eq_some_iff.1 hlast
  have hmark : MarkerAt (a' ++ [0xF2#8] ++ [0xF2#8]) a'.length := by simp [MarkerAt]
  exact (findMarker_eq_none_iff _).1 ha _ hmark

/-- NEXT_FRAME passes garbage over. -/
theorem nextFrame_garbage_append (ha : Garbage a) (b : List Byte) (s : State) :
    nextFrame (s.setBuf (a ++ b)) = nextFrame (s.setBuf b) := by
  have hsearch := findMarker_garbage_append b ha
  cases hb : findMarker b with
  | none =>
    rw [hb] at hsearch
    have htail : keepTail (a ++ b) = keepTail b := by
      rw [keepTail, keepTail, List.getLast?_append]
      cases b.getLast? with
      | none => simp [ha.getLast?_ne]
      | some x => rfl
    rw [nextFrame_of_no_marker (s := s.setBuf (a ++ b)) hsearch, nextFrame_of_no_marker (s := s.setBuf b) hb]
    exact congrArg (fun m => (none, s.setBuf m)) htail
  | some i =>
    rw [hb, Option.map_some] at hsearch
    have hdrop : (a ++ b).drop (i + a.length) = b.drop i := by
      rw [Nat.add_comm, ← List.drop_drop, List.drop_left]
    have hrest : (s.setBuf (a ++ b)).consume (i + a.length) = (s.setBuf b).consume i := congrArg s.setBuf hdrop
    rw [nextFrame_eq, nextFrame_eq (s.setBuf b)]
    simp only [State.setBuf_buf, hsearch, hb, hdrop, hrest]

/-- Without a marker the buffer is garbage before the tail that is kept. -/
theorem exists_garbage_of_no_marker (hb : findMarker b = none) : ∃ a, Garbage a ∧ b = a ++ keepTail b := by
  unfold keepTail
  split
  next hlast =>
    obtain ⟨a, rfl⟩ := List.getLast?_eq_some_iff.1 hlast
    exact ⟨a, hb, rfl⟩
  next hlast =>
    refine ⟨b, (findMarker_eq_none_iff _).2 fun i ⟨hlt, hi, hi'⟩ => ?_, (List.append_nil b).symm⟩
    rw [List.length_append, List.length_singleton] at hlt
    rw [List.getElem?_append_left (by omega)] at hi
    by_cases hin : i + 1 < b.length
    · rw [List.getElem?_append_left hin] at hi'
      exact (findMarker_eq_none_iff b).1 hb i ⟨hin, hi, hi'⟩
    · rw [List.getLast?_eq_getElem?, show b.length - 1 = i by omega] at hlast
      exact hlast hi

/-- What stands before the marker found is garbage. -/
theorem garbage_take_of_findMarker {i : Nat} (hb : findMarker b = some i) : Garbage (b.take i) := by
  obtain ⟨rest, hrest⟩ := findMarker_drop hb
  have hlt := findMarker_lt hb
  have hsplit : b = (b.take i ++ [0xF2#8]) ++ 0xF2#8 :: rest := by
    rw [List.append_assoc, List.singleton_append, ← hrest, List.take_append_drop]
  refine Option.eq_none_iff_forall_ne_some.2 fun j hj => ?_
  have hj' := findMarker_lt hj
  have hsame := findMarker_append (0xF2#8 :: rest) hj
  rw [← hsplit, hb] at hsame
  cases hsame
  rw [List.length_append, List.length_take, List.length_singleton] at hj'
  omega

/-! ## Bytes that come later -/

/-- Dropping bytes that were there before the append. -/
theorem consume_appendBytes {k : Nat} (more : List Byte) (hk : k ≤ s.buf.length) :
    (appendBytes more s).consume k = appendBytes more (s.consume k) :=
  congrArg s.setBuf (List.drop_append_of_le_length hk)

/-- A candidate found stays the candidate, with the same span. -/
theorem candidate_appendBytes {i e : Nat} (more : List Byte) (hi : findMarker s.buf = some i)
    (he : findEnd (s.buf.drop i) = some e) :
    findMarker (appendBytes more s).buf = some i ∧ findEnd ((appendBytes more s).buf.drop i) = some e ∧
      ((appendBytes more s).buf.drop i).take (e + 1) = (s.buf.drop i).take (e + 1) := by
  have hlt := findMarker_lt hi
  have hdrop : (appendBytes more s).buf.drop i = s.buf.drop i ++ more :=
    List.drop_append_of_le_length (by omega)
  refine ⟨findMarker_append more hi, ?_, ?_⟩
  · rw [hdrop, findEnd_append more he]
  · rw [hdrop, List.take_append_of_le_length (findEnd_bounds he).2]

/-- Bytes appended after NEXT_FRAME answered were not looked at: with them a frame is returned as before, and `None` is
only given up for what they bring. -/
theorem nextFrame_appendBytes (more : List Byte) (s : State) :
    (∀ f, (nextFrame s).1 = some f →
        nextFrame (appendBytes more s) = (some f, appendBytes more (nextFrame s).2)) ∧
      ((nextFrame s).1 = none → nextFrame (appendBytes more s) = nextFrame (appendBytes more (nextFrame s).2)) :=
  nextFrame_induction
    (P := fun s r => (∀ f, r.1 = some f → nextFrame (appendBytes more s) = (some f, appendBytes more r.2)) ∧
      (r.1 = none → nextFrame (appendBytes more s) = nextFrame (appendBytes more r.2)))
    (noMarker := fun s hs => by
      refine ⟨nofun, fun _ => ?_⟩
      obtain ⟨a, ha, hbuf⟩ := exists_garbage_of_no_marker hs
      have hsplit : s.buf ++ more = a ++ (keepTail s.buf ++ more) := by rw [← List.append_assoc, ← hbuf]
      rw [appendBytes, hsplit, nextFrame_garbage_append ha]
      rfl)
    (noEnd := fun s i hi _ => by
      refine ⟨nofun, fun _ => ?_⟩
      have hsplit : s.buf ++ more = s.buf.take i ++ (s.buf.drop i ++ more) := by
        rw [← List.append_assoc, List.take_append_drop]
      rw [appendBytes, hsplit, nextFrame_garbage_append (garbage_take_of_findMarker hi)]
      rfl)
    (found := fun s i e hi he hok => by
      refine ⟨fun f hf => ?_, nofun⟩
      cases hf
      obtain ⟨hi', he', hspan⟩ := candidate_appendBytes more hi he
      have hlt := findMarker_lt hi
      rw [nextFrame_of_valid hi' he' (hspan ▸ hok), hspan, consume_appendBytes more (by omega),
        consume_appendBytes more (findEnd_bounds he).2])
    (failed := fun s i e why hi he hbad ih => by
      obtain ⟨hi', he', hspan⟩ := candidate_appendBytes more hi he
      have hlt := findMarker_lt hi
      have hraise : raiseError (.frameError why) (appendBytes more (s.consume i)) =
          appendBytes more (raiseError (.frameError why) (s.consume i)) :=
        consume_appendBytes (s := (s.consume i).act (.log (.frameError why))) more (by simp; omega)
      rw [nextFrame_of_failed hi' he' (hspan ▸ hbad), consume_appendBytes more (by omega), hraise]
      exact ih)
    s

/-- Taking frames by rounds: `P` holds where no frame is found, and is carried back over one frame. -/
theorem takeFrames_induction {P : State → List Frame × State → Prop}
    (done : ∀ s, (nextFrame s).1 = none → P s ([], (nextFrame s).2))
    (took : ∀ s f, (nextFrame s).1 = some f → P (nextFrame s).2 (takeFrames (nextFrame s).2) →
      P s (f :: (takeFrames (nextFrame s).2).1, (takeFrames (nextFrame s).2).2))
    (s : State) : P s (takeFrames s) := by
  induction hn : s.buf.length using Nat.strong_induction_on generalizing s with
  | _ n ih =>
    rw [takeFrames_eq]
    cases hf : (nextFrame s).1 with
    | none => exact done s hf
    | some f => exact took s f hf (ih _ (hn ▸ nextFrame_length_lt hf) _ rfl)

/-- The frames taken are those NEXT_FRAME answers. -/
theorem takeFrames_congr (h : nextFrame s = nextFrame t) : takeFrames s = takeFrames t := by
  rw [takeFrames_eq, takeFrames_eq t, h]

theorem takeFrames_of_some (h : (nextFrame s).1 = some f) :
    takeFrames s = (f :: (takeFrames (nextFrame s).2).1, (takeFrames (nextFrame s).2).2) := by
  rw [takeFrames_eq, h]

/-- Frames taken before more bytes come, and then after, are the frames taken of all. -/
theorem takeFrames_appendBytes (more : List Byte) (s : State) :
    takeFrames (appendBytes more s) =
      ((takeFrames s).1 ++ (takeFrames (appendBytes more (takeFrames s).2)).1,
        (takeFrames (appendBytes more (takeFrames s).2)).2) :=
  takeFrames_induction
    (P := fun s r => takeFrames (appendBytes more s) =
      (r.1 ++ (takeFrames (appendBytes more r.2)).1, (takeFrames (appendBytes more r.2)).2))
    (done := fun s hs => takeFrames_congr ((nextFrame_appendBytes more s).2 hs))
    (took := fun s f hf ih => by
      have hnext := (nextFrame_appendBytes more s).1 f hf
      rw [takeFrames_of_some (f := f) (by rw [hnext]), hnext, ih]
      rfl)
    s

/-- Taking frames keeps the configuration and leaves a tail of the buffer that is waited on. -/
theorem takeFrames_leaves (s : State) :
    (takeFrames s).2.cfg = s.cfg ∧ (takeFrames s).2.buf <:+ s.buf ∧ Waiting (takeFrames s).2.buf :=
  takeFrames_induction (P := fun s r => r.2.cfg = s.cfg ∧ r.2.buf <:+ s.buf ∧ Waiting r.2.buf)
    (done := fun s hs => ⟨nextFrame_cfg s, nextFrame_buf_suffix s, waiting_of_nextFrame_none hs⟩)
    (took := fun s _ _ ⟨hcfg, hsuffix, hwait⟩ =>
      ⟨hcfg.trans (nextFrame_cfg s), hsuffix.trans (nextFrame_buf_suffix s), hwait⟩)
    s

/-- The first chunk of a sequence that fits also fits. -/
theorem wf_append_left {cap : Option Nat} {m bs cs : List Byte} (h : Memory.wf cap (m ++ (bs ++ cs)) = true) :
    Memory.wf cap (m ++ bs) = true :=
  Memory.wf_of_length_le h (by simp)

/-- What framing leaves of the buffer, with the chunks to come, fits too. -/
theorem wf_of_suffix_append {cap : Option Nat} {m m' bs cs : List Byte} (hle : m'.length ≤ (m ++ bs).length)
    (h : Memory.wf cap (m ++ (bs ++ cs)) = true) : Memory.wf cap (m' ++ cs) = true :=
  Memory.wf_of_length_le h (by simp at hle ⊢; omega)

/-- Settles O28: by induction on the chunks, each append being one more step of `takeFrames_appendBytes`. -/
theorem framesDoNotDependOnChunks : Obligations.FramesDoNotDependOnChunks := by
  unfold Obligations.FramesDoNotDependOnChunks
  intro s c cs
  induction cs generalizing s c with
  | nil =>
    intro _
    simp [feedChunks]
  | cons c' cs ih =>
    intro hfits
    rw [List.flatten_cons] at hfits ⊢
    obtain ⟨hcfg, hsuffix, -⟩ := takeFrames_leaves (appendBytes c s)
    have hrest : Memory.wf (takeFrames (appendBytes c s)).2.cfg.bufCap
        ((takeFrames (appendBytes c s)).2.buf ++ (c' :: cs).flatten) = true := by
      rw [hcfg]
      exact wf_of_suffix_append hsuffix.length_le hfits
    rw [feedChunks, feed_of_fits (wf_append_left hfits), ih _ _ hrest, feed_of_fits hrest, feed_of_fits hfits,
      ← appendBytes_append, takeFrames_appendBytes _ (appendBytes c s)]

/-! ## Corruption (R138) -/

/-- No end byte stands in a buffer that is waited on. -/
theorem not_mem_of_waiting (hb : Waiting b) : 0x7E#8 ∉ b := by
  obtain rfl | rfl | ⟨rest, rfl, hrest⟩ := hb
  · simp
  · simp
  · simpa using hrest

/-- A tail of bytes that end in an end byte is waited on only when it is empty. -/
theorem eq_nil_of_waiting {junk : List Byte} (hjunk : junk = [] ∨ junk.getLast? = some 0x7E#8) (hsuffix : b <:+ junk)
    (hwait : Waiting b) : b = [] := by
  obtain ⟨before, rfl⟩ := hsuffix
  by_contra hne
  have hlast : b.getLast? = some 0x7E#8 := by simpa [hne, List.getLast?_append_of_ne_nil] using hjunk
  exact not_mem_of_waiting hwait (List.mem_of_getLast? hlast)

/-- A whole frame alone in the buffer is the one frame taken, and leaves the buffer empty. -/
theorem takeFrames_of_whole_frame (hwf : f.wf = true) (hm : f.startMarker = .incoming)
    (hinner : noInnerEnd f.bytes = true) (hbuf : s.buf = f.bytes) : takeFrames s = ([f], s.setBuf []) := by
  have hnext : nextFrame s = (some f, s.setBuf []) :=
    nextFrame_of_whole_frame hwf hm hinner (by rw [hbuf, List.append_nil])
  have hempty : nextFrame (s.setBuf []) = (none, s.setBuf []) := nextFrame_of_waiting (.inl rfl)
  rw [takeFrames_of_some (f := f) (by rw [hnext]), hnext, takeFrames_eq, hempty]

/-- Settles O30: nothing of the junk is left when the frame comes, so the frame stands alone in the buffer. -/
theorem corruptionNeverLosesTheNextFrame : Obligations.CorruptionNeverLosesTheNextFrame := by
  unfold Obligations.CorruptionNeverLosesTheNextFrame
  intro s junk f hwf hm hinner hjunk hbuf
  obtain ⟨-, hsuffix, hwait⟩ := takeFrames_leaves (s.setBuf junk)
  have hempty : (takeFrames (s.setBuf junk)).2.buf = [] := eq_nil_of_waiting hjunk hsuffix hwait
  have hsplit : s = appendBytes f.bytes (s.setBuf junk) := by
    rw [appendBytes, State.setBuf_buf, ← hbuf]
    rfl
  have halone : (appendBytes f.bytes (takeFrames (s.setBuf junk)).2).buf = f.bytes := by
    rw [appendBytes, State.setBuf_buf, hempty, List.nil_append]
  rw [hsplit, takeFrames_appendBytes, takeFrames_of_whole_frame hwf hm hinner halone]
  exact ⟨List.getLast?_concat, rfl⟩

end Sys2Proof.Machine
end

section
/-! INGEST_BYTES (O29, O43, O48): running a frame reads neither the buffer nor the last result, and publishes its height
when it changed. -/

namespace Sys2Proof.Machine

variable {s t : State} {f : Frame} {i : Instr} {h : Height} {bs more : List Byte}

/-! ## Running an instruction does not read the buffer -/

theorem drive_setBuf (d : Direction) (m : Memory) (s : State) : drive d (s.setBuf m) = (drive d s).setBuf m := by
  rw [drive_eq, drive_eq]
  rfl

theorem stopSeq_setBuf (m : Memory) (s : State) : stopSeq (s.setBuf m) = (stopSeq s).setBuf m := by
  rw [stopSeq_eq, stopSeq_eq]
  rfl

theorem evaluate_setBuf (m : Memory) (s : State) : evaluate (s.setBuf m) = (evaluate s).setBuf m := by
  obtain ⟨d, c, g, hm, hc, hg⟩ | hidle := seekingWithHeights_or s
  · rw [evaluate_seeking hm hc hg, evaluate_seeking (s := s.setBuf m) hm hc hg, stopSeq_setBuf, drive_setBuf,
      apply_ite (State.setBuf · m), apply_ite (State.setBuf · m)]
    rfl
  · rw [evaluate_eq_self hidle, evaluate_eq_self (s := s.setBuf m) hidle]

theorem receiveEvent_heightReading_setBuf (h : Height) (m : Memory) (s : State) :
    receiveEvent (.heightReading h) (s.setBuf m) = (receiveEvent (.heightReading h) s).setBuf m := by
  by_cases hc : s.currentHeight = some h
  · rw [receiveEvent_heightReading, receiveEvent_heightReading, if_pos hc, if_pos (by exact hc)]
    rfl
  · rw [receiveEvent_heightReading_of_changed hc, receiveEvent_heightReading_of_changed (s := s.setBuf m) hc]
    exact evaluate_setBuf m (recordReading h s)

theorem receiveSlot_setBuf (cid : Byte) (p : List Byte) (m : Memory) (s : State) :
    receiveSlot cid p (s.setBuf m) = (receiveSlot cid p s).setBuf m := by
  unfold receiveSlot
  split <;> rfl

/-- The buffer passes through an instruction. -/
theorem exec_setBuf (m : Memory) (ht : exec i s = .next t) : exec i (s.setBuf m) = .next (t.setBuf m) := by
  cases i <;> cases ht
  case heightReading h extra => exact congrArg _ (receiveEvent_heightReading_setBuf h m s)
  case memorySlotReading37 | memorySlotReading38 | memorySlotReading39 | memorySlotReading40 =>
    exact congrArg _ (receiveSlot_setBuf _ _ m s)
  all_goals rfl

/-- An instruction gives a result of its own, whatever the last one was. -/
theorem exec_returns (i : Instr) (q : OpResult) (s : State) : exec i (s.returns q) = exec i s := by
  have hslot (cid : Byte) (p : List Byte) : receiveSlot cid p (s.returns q) = receiveSlot cid p s := by
    unfold receiveSlot
    split <;> rfl
  cases i
  case memorySlotReading37 | memorySlotReading38 | memorySlotReading39 | memorySlotReading40 =>
    exact congrArg Host.Outcome.next (hslot _ _)
  all_goals rfl

/-! ## Draining in chunks (R72) -/

theorem drain_of_ran (hf : (nextFrame s).1 = some f) (hi : instrOfIncoming f = some i)
    (hx : exec i (nextFrame s).2 = .next t) : drain s = drain t := by
  rw [drain_eq, hf]
  simp only [hi, hx, andThen_next]

theorem drain_of_none (hf : (nextFrame s).1 = none) : drain s = .next (nextFrame s).2 := by
  rw [drain_eq, hf]

theorem drain_congr (hnext : nextFrame s = nextFrame t) : drain s = drain t := by
  rw [drain_eq, drain_eq t, hnext]

/-- Draining before more bytes come, and then again, is draining all. -/
theorem drain_appendBytes (more : List Byte) (ht : drain s = .next t) :
    drain (appendBytes more s) = drain (appendBytes more t) :=
  drain_induction
    (P := fun s o => ∀ t, o = .next t → drain (appendBytes more s) = drain (appendBytes more t))
    (done := fun s hs t ht => by
      cases ht
      exact drain_congr ((nextFrame_appendBytes more s).2 hs))
    (ignored := fun s f hf hi ih t ht => by
      have hnext := (nextFrame_appendBytes more s).1 f hf
      rw [drain_of_no_row (f := f) (by rw [hnext]) hi, hnext, ih t ht])
    (ran := fun s f i u hf hi hx ih t ht => by
      have hnext := (nextFrame_appendBytes more s).1 f hf
      have hbuf : u.buf = (nextFrame s).2.buf := (exec_leaves _ hx).1
      have hexec : exec i (appendBytes more (nextFrame s).2) = .next (appendBytes more u) := by
        rw [appendBytes, appendBytes, hbuf]
        exact exec_setBuf _ hx
      rw [drain_of_ran (f := f) (by rw [hnext]) hi (by rw [hnext]; exact hexec), ih t ht])
    (faulted := fun _ _ _ _ _ _ _ _ ht => nomatch ht)
    (refused := fun _ _ _ _ _ _ _ _ ht => nomatch ht) s t ht

/-- A drain reads no result, and ends alike but for it. -/
theorem drain_returns (q : OpResult) (ht : drain s = .next t) : ∃ q', drain (s.returns q) = .next (t.returns q') :=
  drain_induction (P := fun s o => ∀ t, o = .next t → ∃ q', drain (s.returns q) = .next (t.returns q'))
    (done := fun s hs t ht => by
      cases ht
      exact ⟨q, by rw [drain_of_none (by rw [nextFrame_returns]; exact hs), nextFrame_returns]⟩)
    (ignored := fun s f hf hi ih t ht => by
      rw [drain_of_no_row (f := f) (by rw [nextFrame_returns]; exact hf) hi, nextFrame_returns]
      exact ih t ht)
    (ran := fun s f i u hf hi hx ih t ht => by
      have hexec : exec i ((nextFrame s).2.returns q) = .next u := by rw [exec_returns, hx]
      rw [drain_of_ran (f := f) (by rw [nextFrame_returns]; exact hf) hi (by rw [nextFrame_returns]; exact hexec)]
      exact ⟨t.result, ht⟩)
    (faulted := fun _ _ _ _ _ _ _ _ ht => nomatch ht)
    (refused := fun _ _ _ _ _ _ _ _ ht => nomatch ht) s t ht

/-- A drain never lengthens the buffer. -/
theorem drain_length_le (ht : drain s = .next t) : t.buf.length ≤ s.buf.length :=
  drain_induction (P := fun s o => ∀ t, o = .next t → t.buf.length ≤ s.buf.length)
    (done := fun s _ t ht => by cases ht; exact nextFrame_length_le s)
    (ignored := fun s _ _ _ ih t ht => (ih t ht).trans (nextFrame_length_le s))
    (ran := fun s _ _ _ _ _ hx ih t ht => by
      have hle := ih t ht
      rw [(exec_leaves _ hx).1] at hle
      exact hle.trans (nextFrame_length_le s))
    (faulted := fun _ _ _ _ _ _ _ _ ht => nomatch ht)
    (refused := fun _ _ _ _ _ _ _ _ ht => nomatch ht) s t ht

theorem ingestBytes_of_drain (ht : drain (feed bs s) = .next t) :
    ingestBytes bs s = .next (t.returns (.published (publishedSince s.trace t))) := by
  rw [ingestBytes, ht, andThen_next]

/-- The state of a drain that ran in two parts, the second after a result was given, is that of the whole but for the
result. -/
theorem drain_two_parts {u v : State} {cs : List Byte} (q : OpResult) (hfirst : drain (appendBytes bs s) = .next t)
    (hsecond : drain (appendBytes cs (t.returns q)) = .next u) (hwhole : drain (appendBytes (bs ++ cs) s) = .next v) :
    u.returns .nothing = v.returns .nothing := by
  rw [← appendBytes_append, drain_appendBytes cs hfirst] at hwhole
  obtain ⟨q', hq⟩ := drain_returns q hwhole
  cases hq.symm.trans hsecond
  rfl

/-- Settles O29: by induction on the chunks, each append being one more part of the drain. -/
theorem ingestDoesNotDependOnChunks : Obligations.IngestDoesNotDependOnChunks := by
  unfold Obligations.IngestDoesNotDependOnChunks
  intro s c cs
  induction cs generalizing s c with
  | nil =>
    intro _
    obtain ⟨t, ht⟩ := exists_drain_eq_next (feed c s)
    have hone := ingestBytes_of_drain ht
    exact ⟨_, _, by rw [ingestChunks, hone, andThen_next, ingestChunks],
      by rw [List.flatten_singleton, hone], rfl⟩
  | cons c' cs ih =>
    intro hfits
    rw [List.flatten_cons] at hfits ⊢
    obtain ⟨t, ht⟩ := exists_drain_eq_next (appendBytes c s)
    obtain ⟨w, hw⟩ := exists_drain_eq_next (appendBytes (c ++ (c' :: cs).flatten) s)
    have hfirst := ingestBytes_of_drain (feed_of_fits (wf_append_left hfits) ▸ ht)
    have hwhole := ingestBytes_of_drain (feed_of_fits hfits ▸ hw)
    have hrest : Memory.wf t.cfg.bufCap (t.buf ++ (c' :: cs).flatten) = true := by
      rw [(drain_leaves ht).1]
      exact wf_of_suffix_append (drain_length_le ht) hfits
    have hfeed (r : OpResult) : feed (c' :: cs).flatten (t.returns r) = appendBytes (c' :: cs).flatten (t.returns r) :=
      feed_of_fits hrest
    obtain ⟨u, v, hu, hv, huv⟩ := ih (t.returns (.published (publishedSince s.trace t))) c' hrest
    refine ⟨u, _, by rw [ingestChunks, hfirst, andThen_next, hu], hwhole, huv.trans ?_⟩
    obtain ⟨v', hv', hret⟩ := andThen_eq_next hv
    cases hret
    rw [hfeed] at hv'
    exact drain_two_parts (u := v') (v := w) _ ht hv' hw

/-! ## A frame ingested alone -/

theorem frameOfInstr_startMarker (ids : CommandIds) (i : Instr) : (frameOfInstr ids i).startMarker = i.marker := by
  cases i <;> rfl

/-- A telemetry row is selected by an incoming Frame. -/
theorem incoming_of_telemetry {ids : CommandIds} (hwf : f.wf = true) (hsel : instrOfFrame ids f = some i)
    (hi : i.command? = none) : f.startMarker = .incoming ∧ instrOfIncoming f = some i := by
  have hm : f.startMarker = .incoming := by
    obtain ⟨-, rfl⟩ := frameOfInstr_of_instrOfFrame hwf hsel
    rw [frameOfInstr_startMarker, Instr.marker, hi]
    rfl
  rw [instrOfFrame, hm] at hsel
  exact ⟨hm, hsel⟩

/-- Draining a buffer that holds one whole frame runs the row it selects, and nothing is left. -/
theorem drain_of_whole_frame (hwf : f.wf = true) (hm : f.startMarker = .incoming) (hinner : noInnerEnd f.bytes = true)
    (hsel : instrOfIncoming f = some i) (hbuf : s.buf = f.bytes) (hx : exec i (s.setBuf []) = .next t) :
    drain s = .next t := by
  have hnext : nextFrame s = (some f, s.setBuf []) :=
    nextFrame_of_whole_frame hwf hm hinner (by rw [hbuf, List.append_nil])
  have hempty : t.buf = [] := (exec_leaves _ hx).1
  have hwait : nextFrame t = (none, t) := nextFrame_of_waiting (.inl hempty)
  rw [drain_of_ran (f := f) (by rw [hnext]) hsel (by rw [hnext]; exact hx), drain_of_none (by rw [hwait]), hwait]

/-- Settles O43: the bytes are one whole frame, so the drain is the one instruction. -/
theorem stepRunsTheDecodedTelemetry : Obligations.StepRunsTheDecodedTelemetry := by
  unfold Obligations.StepRunsTheDecodedTelemetry
  intro s bs rest i hp hbuf hfits hdec hi hinner
  obtain ⟨f, hwf, rfl, hsel⟩ := decode_eq_instr_iff.1 hdec
  obtain ⟨hm, hsel⟩ := incoming_of_telemetry hwf hsel hi
  obtain ⟨t, ht⟩ := exists_exec_eq_next i (s.setPending rest)
  refine ⟨t, ht, ?_⟩
  have hfeed : feed f.bytes (s.setPending rest) = (s.setPending rest).setBuf f.bytes := by
    rw [feed_of_fits (by simpa [hbuf] using hfits), appendBytes, State.setPending_buf, hbuf, List.nil_append]
  have hself : ((s.setPending rest).setBuf f.bytes).setBuf [] = s.setPending rest := by
    rw [← hbuf]
    rfl
  have hdrain : drain (feed f.bytes (s.setPending rest)) = .next t := by
    rw [hfeed]
    exact drain_of_whole_frame hwf hm hinner hsel rfl (by rw [hself, ht])
  rw [step_cons s hp]
  exact ingestBytes_of_drain hdrain

/-! ## What is published (R232) -/

/-- Two states with the same buffer give the same frames. -/
theorem takeFrames_fst_congr (hbuf : t.buf = s.buf) : (takeFrames t).1 = (takeFrames s).1 :=
  takeFrames_induction (P := fun s r => ∀ t : State, t.buf = s.buf → (takeFrames t).1 = r.1)
    (done := fun s hs t hbuf => by rw [takeFrames_eq, (nextFrame_congr hbuf).1, hs])
    (took := fun s f hf ih t hbuf => by
      obtain ⟨hsame, hrest⟩ := nextFrame_congr hbuf
      rw [takeFrames_of_some (hsame.trans hf), ih _ hrest])
    s t hbuf

/-- From `s` to `t`, with the heights `read`: the changes among them are published in order, and the last one read is
the height known. -/
def Publishes (s t : State) (read : List Height) : Prop :=
  ∃ acts, t.trace = s.trace ++ acts ∧ publishedHeights acts = changesFrom s.currentHeight read ∧
    t.currentHeight = (read.getLast?).or s.currentHeight

theorem Publishes.trans {u : State} {read read' : List Height} (hst : Publishes s t read) (htu : Publishes t u read') :
    Publishes s u (read ++ read') := by
  obtain ⟨acts, htr, hpub, hc⟩ := hst
  obtain ⟨acts', htr', hpub', hc'⟩ := htu
  refine ⟨acts ++ acts', by rw [htr', htr, List.append_assoc], ?_, ?_⟩
  · rw [publishedHeights_append, hpub, hpub', hc, changesFrom_append]
  · rw [hc', hc, List.getLast?_append, Option.or_assoc]

/-- An operation that only logs, and keeps the height, publishes nothing. -/
theorem publishes_nil (acts : List Action) (htr : t.trace = s.trace ++ acts) (hnone : publishedHeights acts = [])
    (hc : t.currentHeight = s.currentHeight) : Publishes s t [] :=
  ⟨acts, htr, by rw [hnone, changesFrom_nil], by rw [hc]; rfl⟩

theorem publishes_feed (bs : List Byte) (s : State) : Publishes s (feed bs s) [] := by
  obtain ⟨-, e⟩ | ⟨-, e⟩ := feed_cases bs s <;> rw [e]
  · exact publishes_nil [] (by simp) rfl rfl
  · exact publishes_nil _ (raiseError_trace _ _) rfl (by simp)

theorem publishedHeights_frameErrors (whys : List SpanFault) :
    publishedHeights (whys.map fun w => .log (.frameError w)) = [] := by
  induction whys with
  | nil => rfl
  | cons w whys ih => exact ih

theorem publishes_nextFrame (s : State) : Publishes s (nextFrame s).2 [] := by
  obtain ⟨k, whys, -, -, hnext⟩ := framingOnlyDropsAPrefix s
  rw [hnext]
  exact publishes_nil _ rfl (publishedHeights_frameErrors whys) rfl

/-- What evaluation adds publishes nothing. -/
theorem publishedHeights_evaluation {cfg : Cfg} {acts : List Action}
    (hacts : EvaluationActions cfg acts) : publishedHeights acts = [] := by
  obtain rfl | rfl | ⟨hst, d, rfl⟩ := hacts
  · rfl
  · unfold stopActions
    split <;> rfl
  · rw [driveActions, hst]
    rfl

/-- A received height is published if it changed. -/
theorem publishes_receiveEvent_heightReading (h : Height) (s : State) :
    Publishes s (receiveEvent (.heightReading h) s) [h] := by
  by_cases hc : s.currentHeight = some h
  · refine ⟨[], ?_, ?_, receiveEvent_heightReading_currentHeight h s⟩
    · rw [receiveEvent_heightReading, if_pos hc, List.append_nil]
      rfl
    · rw [changesFrom_cons, if_pos hc, changesFrom_nil]
      rfl
  · obtain ⟨acts, htr, hacts⟩ := exists_receiveEvent_heightReading_trace hc
    refine ⟨_, htr, ?_, receiveEvent_heightReading_currentHeight h s⟩
    rw [changesFrom_cons, if_neg hc, changesFrom_nil, publishedHeights, publishedHeights_evaluation hacts]

/-- The row a Frame selects publishes what the Frame reads. -/
theorem publishes_exec (hwf : f.wf = true) (hsel : instrOfIncoming f = some i) (hx : exec i s = .next t) :
    Publishes s t (heightRead f).toList := by
  obtain ⟨e, he, hrun⟩ | ⟨cid, n, he, hrun⟩ := runsDecoded_of_instrOfIncoming hwf hsel s <;>
    cases hrun.symm.trans hx
  · rw [heightRead, he]
    cases e with
    | heightReading h => exact publishes_receiveEvent_heightReading h s
    | memorySlotReading cid h => exact publishes_nil [] (List.append_nil _).symm rfl rfl
    | limitReading mx mn => exact publishes_nil [] (List.append_nil _).symm rfl rfl
  · rw [heightRead, he]
    exact publishes_nil _ (raiseError_trace s _) rfl (raiseError_currentHeight s _)

/-- A drain publishes what the frames it takes read. -/
theorem publishes_drain (ht : drain s = .next t) : Publishes s t (heightsRead (takeFrames s).1) :=
  drain_induction (P := fun s o => ∀ t, o = .next t → Publishes s t (heightsRead (takeFrames s).1))
    (done := fun s hs t ht => by
      cases ht
      rw [takeFrames_eq, hs]
      exact publishes_nextFrame s)
    (ignored := fun s f hf hi ih t ht => by
      obtain ⟨hwf, -⟩ := nextFrame_sound hf
      have hnone : heightRead f = none := by
        rw [heightRead, telemetryOf_of_unrecognised (unrecognised_of_instrOfIncoming hwf hi)]
      rw [takeFrames_of_some hf, heightsRead_cons, hnone]
      exact (publishes_nextFrame s).trans (ih t ht))
    (ran := fun s f i u hf hi hx ih t ht => by
      obtain ⟨hwf, -⟩ := nextFrame_sound hf
      rw [takeFrames_of_some hf, heightsRead_cons, ← takeFrames_fst_congr (exec_leaves _ hx).1]
      exact ((publishes_nextFrame s).trans (publishes_exec hwf hi hx)).trans (ih t ht))
    (faulted := fun _ _ _ _ _ _ _ _ ht => nomatch ht)
    (refused := fun _ _ _ _ _ _ _ _ ht => nomatch ht) s t ht

/-- Neither two changes in a row are equal, nor the first one and the height known before. -/
theorem neighboursDiffer_changesFrom (known : Option Height) (hs : List Height) :
    neighboursDiffer (known.toList ++ changesFrom known hs) = true := by
  induction hs generalizing known with
  | nil => cases known <;> rfl
  | cons h hs ih =>
    rw [changesFrom_cons]
    split
    next => exact ih known
    next hne =>
      have hrest : neighboursDiffer (h :: changesFrom (some h) hs) = true := ih (some h)
      cases known with
      | none => exact hrest
      | some k => simpa [neighboursDiffer, hrest] using hne

/-- Settles O48: what the drain publishes, read off the trace INGEST_BYTES has added. -/
theorem ingestPublishesEachChangeOnce : Obligations.IngestPublishesEachChangeOnce := by
  unfold Obligations.IngestPublishesEachChangeOnce
  intro s t bs ht
  obtain ⟨u, hu, hret⟩ := andThen_eq_next ht
  cases hret
  obtain ⟨acts, htr, hpub, hc⟩ := (publishes_feed bs s).trans (publishes_drain hu)
  rw [List.nil_append] at hpub hc
  refine ⟨acts, htr, hpub, ?_, ?_, ?_, hc⟩
  · rw [State.returns_result, publishedSince, htr, List.drop_left]
  · rw [hpub]
    exact neighboursDiffer_changesFrom _ _
  · rw [hpub, changesFrom_getLast?]
    exact hc

end Sys2Proof.Machine
end
